-- ==== Sys2Proof/Word.lean ====
section
/-! DEFINITION. The widths the spec uses (R10): every value is an unsigned number of a fixed width. -/
namespace Sys2Proof

/-- `u8` of R10: a byte of the wire, of `FB`, of `XM`, and every 8-bit register. -/
abbrev Byte := BitVec 8
/-- `u16` of R10: command ids, short addresses, the 16-bit registers. -/
abbrev Word16 := BitVec 16
/-- `u32` of R10: the key and the timestamp. -/
abbrev Word32 := BitVec 32
/-- `u64` of R10: a long (IEEE) address. -/
abbrev Word64 := BitVec 64

end Sys2Proof
end

