-- ==== Sys2Proof/Machine/Bytes.lean ====
section
/-! DEFINITION. Byte assembly (R11), the response id (R93) and small numeric helpers. The command id is the only
big-endian value; every payload field is little-endian (R62). -/
namespace Sys2Proof

/-- `MSB(w) = w[15:8]` (R11). -/
def msb (w : Word16) : Byte := (w >>> 8).setWidth 8

/-- `LSB(w) = w[7:0]` (R11). -/
def lsb (w : Word16) : Byte := w.setWidth 8

/-- `BE16(b0, b1) = b0 ++ b1` (R11): only the command id uses it. -/
def be16 (b0 b1 : Byte) : Word16 := b0 ++ b1

/-- `LE16(b0, b1) = b1 ++ b0` (R11). -/
def le16 (b0 b1 : Byte) : Word16 := b1 ++ b0

/-- `LE32(b0..b3) = b3 ++ b2 ++ b1 ++ b0` (R11). -/
def le32 (b0 b1 b2 b3 : Byte) : Word32 := b3 ++ b2 ++ b1 ++ b0

/-- `LE64(b0..b7) = b7 ++ ... ++ b0` (R11). -/
def le64 (b0 b1 b2 b3 b4 b5 b6 b7 : Byte) : Word64 := b7 ++ b6 ++ b5 ++ b4 ++ b3 ++ b2 ++ b1 ++ b0

/-- Byte `i` of a value, byte 0 the least significant: `v[8*i+7 : 8*i]` (R192, R198). -/
def byteOf {w : Nat} (v : BitVec w) (i : Nat) : Byte := (v >>> (8 * i)).setWidth 8

/-- The number a list of bytes stands for, least significant byte first (R62 b, c, R96). -/
def leNat : List Byte → Nat
  | [] => 0
  | b :: bs => b.toNat + 256 * leNat bs

/-- A number as `width` bytes, least significant byte first (R62 b, c, R96). -/
def leBytes : Nat → Nat → List Byte
  | 0, _ => []
  | width + 1, v => BitVec.ofNat 8 v :: leBytes width (v / 256)

/-- `resp(C) = (C + 0x4000) mod 2^16` (R93, C1, D5). -/
def resp (c : Word16) : Word16 := c + 0x4000#16

/-- `ceil(a / b)` over the natural numbers, `b` positive (R167). -/
def ceilDiv (a b : Nat) : Nat := (a + b - 1) / b

end Sys2Proof
end

