-- ==== Sys2Proof/Config.lean ====
section
/-! DEFINITION. The configuration `Cfg` of R8 with its constraints' data, the layouts `Cfg.schema` of R100, the
defaults the spec gives, and the free values of the model. The constraints themselves are in WellFormed.lean. -/
namespace Sys2Proof

/-- A handshake bound (R8): a positive natural number of samples, or `INF`. -/
inductive Bound where
  | inf
  | fin (n : Nat)
deriving DecidableEq, Repr

/-- The ten result kinds of R13. -/
inductive ResultKind where
  | moduleSuccess | invalidParameter | nullParameter | invalidLength | invalidCluster
  | chipSelectTimeout | srspTimeout | incorrectSrsp | phyOtherError | timeout
deriving DecidableEq, Repr

/-- The codes of the nine nonzero kinds, `rc` of R110: OPEN, so plain data of the configuration. -/
structure ResultCodes where
  invalidParameter  : Byte
  nullParameter     : Byte
  invalidLength     : Byte
  invalidCluster    : Byte
  chipSelectTimeout : Byte
  srspTimeout       : Byte
  incorrectSrsp     : Byte
  phyOtherError     : Byte
  timeout           : Byte
deriving DecidableEq, Repr

/-- The ten fixed command ids `CID_*` of R101. -/
structure CommandIds where
  afDataRequest        : Word16
  afDataRequestExt     : Word16
  afDataStore          : Word16
  afDataRetrieve       : Word16
  afDataConfirm        : Word16
  afIncomingMsg        : Word16
  afIncomingMsgExt     : Word16
  zdoStateChangeInd    : Word16
  zdoEndDeviceAnnceInd : Word16
  zdoLeaveInd          : Word16
deriving DecidableEq, Repr

/-- One field of a schema (R100): its payload offset and its width in bytes. The encoding is not data: every payload
field is little-endian, "all fixed, none switchable" (R62, R96). -/
structure Field where
  off   : Nat
  width : Nat
deriving DecidableEq, Repr

/-- The begin-extended-send request (R103); `fixed` is its length. -/
structure SendExtLayout where
  fixed  : Nat
  amode  : Field
  addr   : Field
  dep    : Field
  pan    : Field
  sep    : Field
  clus   : Field
  tseq   : Field
  ack    : Field
  radius : Field
  len    : Field
deriving DecidableEq, Repr

/-- The store-chunk request (R104); the chunk stands from `fixed` on. -/
structure StoreLayout where
  fixed  : Nat
  offset : Field
  count  : Field
deriving DecidableEq, Repr

/-- The retrieve request (R105); `fixed` is its length. -/
structure RetrieveLayout where
  fixed  : Nat
  key    : Field
  offset : Field
  count  : Field
deriving DecidableEq, Repr

/-- The retrieve response (R105); the data stands from `fixed` on. -/
structure RetrievedLayout where
  fixed  : Nat
  status : Field
  count  : Field
deriving DecidableEq, Repr

/-- A response of R106, of which the block reads the status byte and nothing else. -/
structure ResponseLayout where
  status : Field
deriving DecidableEq, Repr

/-- `StateChange` (R216). -/
structure StateChangeLayout where
  fixed : Nat
  state : Field
deriving DecidableEq, Repr

/-- `Announce` (R217). -/
structure AnnounceLayout where
  fixed : Nat
  addr1 : Field
  addr2 : Field
  mac   : Field
  cap   : Field
deriving DecidableEq, Repr

/-- `DeviceLeave` (R218). -/
structure LeaveLayout where
  fixed : Nat
  addr1 : Field
  mac   : Field
  req   : Field
  rem   : Field
  rej   : Field
deriving DecidableEq, Repr

/-- `IncomingMessage` (R219); the data stands from `fixed` on. -/
structure IncomingLayout where
  fixed : Nat
  group : Field
  clus  : Field
  addr1 : Field
  sep   : Field
  dep   : Field
  bcast : Field
  lqi   : Field
  sec   : Field
  ts    : Field
  tseq  : Field
  dlen  : Field
deriving DecidableEq, Repr

/-- `IncomingMessageExtended` (R220); the data, when present, stands from `fixed` on. -/
structure IncomingExtLayout where
  fixed  : Nat
  group  : Field
  clus   : Field
  samode : Field
  mac    : Field
  sep    : Field
  span   : Field
  dep    : Field
  bcast  : Field
  lqi    : Field
  sec    : Field
  ts     : Field
  tseq   : Field
  dlen   : Field
deriving DecidableEq, Repr

/-- `DataConfirm` (R221). -/
structure ConfirmLayout where
  fixed  : Nat
  status : Field
  ep     : Field
  tid    : Field
deriving DecidableEq, Repr

/-- `Cfg.schema` (R100): every layout but that of the send-data request, which the source itself gives (R102). -/
structure Schema where
  sendExt     : SendExtLayout
  store       : StoreLayout
  retrieve    : RetrieveLayout
  retrieved   : RetrievedLayout
  requestSrsp : ResponseLayout
  sendExtSrsp : ResponseLayout
  storeSrsp   : ResponseLayout
  stateChange : StateChangeLayout
  announce    : AnnounceLayout
  leave       : LeaveLayout
  incoming    : IncomingLayout
  incomingExt : IncomingExtLayout
  confirm     : ConfirmLayout
deriving DecidableEq, Repr

/-- `HDR`, the header size (R8): fixed. -/
def hdr : Nat := 3

/-- Length of the fixed part of a send-data request (R102, from the source). -/
def requestFixed : Nat := 10

/-- The configuration record of R8. `radius` is any byte: R8's constraint column says "fixed" and gives the default 0x0F,
92_eei_decisions.md lists `RADIUS` among the parameters with defaults (entry 29, DESIGN CHOICE). -/
structure Cfg where
  cap       : Nat
  tCs       : Bound
  tSrsp     : Bound
  pollMs    : Nat
  chunkMax  : Nat
  afMaxData : Nat
  xcap      : Nat
  xlenMax   : Nat
  amodes    : List Byte
  cid       : CommandIds
  rc        : ResultCodes
  radius    : Byte
  schema    : Schema
deriving DecidableEq, Repr

/-- `NMAX = CAP - HDR` (R8). -/
def Cfg.nmax (c : Cfg) : Nat := c.cap - hdr

/-- The default ids of R101. -/
def Config.ids : CommandIds :=
  { afDataRequest := 0x2401#16, afDataRequestExt := 0x2402#16, afDataStore := 0x2411#16,
    afDataRetrieve := 0x2412#16, afDataConfirm := 0x4480#16, afIncomingMsg := 0x4481#16,
    afIncomingMsgExt := 0x4482#16, zdoStateChangeInd := 0x45C0#16,
    zdoEndDeviceAnnceInd := 0x45C1#16, zdoLeaveInd := 0x45C9#16 }

/-- The default layouts: R103 to R106 and R216 to R221; a field is written (payload offset, width in bytes). -/
def Config.layouts : Schema :=
  { sendExt := { fixed := 20, amode := ⟨0, 1⟩, addr := ⟨1, 8⟩, dep := ⟨9, 1⟩, pan := ⟨10, 2⟩, sep := ⟨12, 1⟩,
                 clus := ⟨13, 2⟩, tseq := ⟨15, 1⟩, ack := ⟨16, 1⟩, radius := ⟨17, 1⟩, len := ⟨18, 2⟩ }
    store := { fixed := 3, offset := ⟨0, 2⟩, count := ⟨2, 1⟩ }
    retrieve := { fixed := 7, key := ⟨0, 4⟩, offset := ⟨4, 2⟩, count := ⟨6, 1⟩ }
    retrieved := { fixed := 2, status := ⟨0, 1⟩, count := ⟨1, 1⟩ }
    requestSrsp := { status := ⟨0, 1⟩ }
    sendExtSrsp := { status := ⟨0, 1⟩ }
    storeSrsp := { status := ⟨0, 1⟩ }
    stateChange := { fixed := 1, state := ⟨0, 1⟩ }
    announce := { fixed := 13, addr1 := ⟨0, 2⟩, addr2 := ⟨2, 2⟩, mac := ⟨4, 8⟩, cap := ⟨12, 1⟩ }
    leave := { fixed := 13, addr1 := ⟨0, 2⟩, mac := ⟨2, 8⟩, req := ⟨10, 1⟩, rem := ⟨11, 1⟩, rej := ⟨12, 1⟩ }
    incoming := { fixed := 17, group := ⟨0, 2⟩, clus := ⟨2, 2⟩, addr1 := ⟨4, 2⟩, sep := ⟨6, 1⟩, dep := ⟨7, 1⟩,
                  bcast := ⟨8, 1⟩, lqi := ⟨9, 1⟩, sec := ⟨10, 1⟩, ts := ⟨11, 4⟩, tseq := ⟨15, 1⟩, dlen := ⟨16, 1⟩ }
    incomingExt := { fixed := 27, group := ⟨0, 2⟩, clus := ⟨2, 2⟩, samode := ⟨4, 1⟩, mac := ⟨5, 8⟩, sep := ⟨13, 1⟩,
                     span := ⟨14, 2⟩, dep := ⟨16, 1⟩, bcast := ⟨17, 1⟩, lqi := ⟨18, 1⟩, sec := ⟨19, 1⟩,
                     ts := ⟨20, 4⟩, tseq := ⟨24, 1⟩, dlen := ⟨25, 2⟩ }
    confirm := { fixed := 3, status := ⟨0, 1⟩, ep := ⟨1, 1⟩, tid := ⟨2, 1⟩ } }

/-- DESIGN CHOICE (entry 1), unsafe for a claim about the reset state only: numbers for the OPEN `rc` of R110,
the kinds of its table in order from 0x31. No statement rests on them. -/
def Config.codes : ResultCodes :=
  { invalidParameter := 0x31#8, nullParameter := 0x32#8, invalidLength := 0x33#8, invalidCluster := 0x34#8,
    chipSelectTimeout := 0x35#8, srspTimeout := 0x36#8, incorrectSrsp := 0x37#8, phyOtherError := 0x38#8,
    timeout := 0x39#8 }

/-- DESIGN CHOICE (entry 1): the defaults of R8 with the OPEN bounds at the value `95_test_vectors.md` uses. It is
the configuration of the reset state; a step reads the state's own `cfg`, whatever it is. -/
def Config.vectors : Cfg :=
  { cap := 255, tCs := .fin 4, tSrsp := .fin 4, pollMs := 100, chunkMax := 247, afMaxData := 242, xcap := 65536,
    xlenMax := 65535, amodes := [0x01#8, 0x02#8, 0x03#8, 0xFF#8], cid := Config.ids, rc := Config.codes,
    radius := 0x0F#8, schema := Config.layouts }

/-- Free value (entry 3, safe): a ready sample past the end of the Module's listed answers (R72, R75). -/
opaque Config.freeReady : Nat → Bool

/-- Free value (entry 3, safe): a received byte past the end of the Module's listed answers (R73, R75). -/
opaque Config.freeByte : Nat → Byte

/-- Free value (entry 2, safe): what `FB[a]` holds while nothing has written it (R21, R281). -/
opaque Config.fbInit : Nat → Byte

/-- Free value (entry 2, safe): what `XM[a]` holds while nothing has written it (R22, R281). -/
opaque Config.xmInit : Nat → Byte

end Sys2Proof
end

