-- ==== Sys2Proof/Machine/State.lean ====
section
/-! DEFINITION. The state of the block (R20) and, beside it, what the model must carry because the step is a function of
State alone: the configuration, the Module's answers to come, the Host's pending actions. INVENTORY.md lists every
field with its rule and its reset value. -/
namespace Sys2Proof.Machine

/-- The handshake phase `PH` (R24). -/
inductive Phase where
  | idle | selectAsserted | awaitingReady | transferring | awaitingReadyRelease | rxHeader | rxPayload
  | complete | error
deriving DecidableEq, Repr

/-- The dispatcher state `DS` (R25). -/
inductive DState where
  | dIdle | dValidate | dBuild | dExchange | dStatus | dWaitSample | dWaitPoll | dWaitClassify | dWaitDelay
  | dChunk | dDone
deriving DecidableEq, Repr

/-- The classifier's variants (R112). -/
inductive Variant where
  | noMessage | syncResponse | stateChange | announce | deviceLeave | incoming | incomingExt | dataConfirm | unknown
deriving DecidableEq, Repr

/-- The events of the trace, the closed list of R76. -/
inductive Event where
  /-- `SetSel(b)` (R71). -/
  | setSel (b : Bool)
  /-- `RdRdy(v)` (R72). -/
  | rdRdy (v : Bool)
  /-- `Xfer(out, in)` (R73). -/
  | xfer (sent received : List Byte)
  /-- `BusReset` (R74). -/
  | busReset
  /-- `Delay(ms)` (R166). -/
  | delay (ms : Nat)
  /-- `Demux(kind, cid)` (R224). -/
  | demux (kind : Byte) (cid : Word16)
  /-- `Diag(op, res)` (R266). -/
  | diag (op res : Byte)
deriving DecidableEq, Repr

/-- What the outside world can do to the block (R305, R119, R280 a, R284 a); entry 9. -/
inductive HostAct where
  /-- A mnemonic line of R119: write the opcode to `CMD`, then wait until `DONE = 1`. -/
  | op (v : Byte)
  /-- A write to `CMD` alone (R28): the Host goes on without waiting. -/
  | start (v : Byte)
  /-- A write of a register by number (R39, R119 `SET`). -/
  | set (reg : Nat) (v : Word64)
  /-- A read of a register by number (R39). -/
  | get (reg : Nat)
  /-- A write of consecutive bytes of `FB` (R119 `FBW`). -/
  | fbw (addr : Nat) (bytes : List Byte)
  /-- A write of consecutive bytes of `XM` (R119 `XMW`). -/
  | xmw (addr : Nat) (bytes : List Byte)
  /-- A read of one byte of `FB`. -/
  | fbr (addr : Nat)
  /-- A read of one byte of `XM`. -/
  | xmr (addr : Nat)
  /-- The Host leaves the block alone for one of its steps. -/
  | letRun
  /-- The reset input of the block (R280 a, R282). -/
  | blockReset
  /-- The platform initialises the Bus collaborator (R284 a). -/
  | busInit
deriving DecidableEq, Repr

/-- The operand registers `A_*` (R35). -/
structure Operands where
  cid   : Word16
  len   : Byte
  flags : Byte
  soff  : Byte
  tmo   : Byte
  nid   : Word16
  daddr : Word64
  amode : Byte
  dep   : Byte
  sep   : Byte
  clus  : Word16
  dptr  : Word16
  dlen  : Word16
  key   : Word32
deriving DecidableEq, Repr

/-- The classifier output registers `KIND`, `KFLAGS`, `K_*` (R36). -/
structure ClassOut where
  kind   : Byte
  kflags : Byte
  cid    : Word16
  len    : Byte
  status : Byte
  ep     : Byte
  tid    : Byte
  addr1  : Word16
  addr2  : Word16
  mac    : Word64
  cap    : Byte
  state  : Byte
  group  : Word16
  clus   : Word16
  sep    : Byte
  dep    : Byte
  bcast  : Byte
  lqi    : Byte
  sec    : Byte
  ts     : Word32
  tseq   : Byte
  dlen   : Word16
  doff   : Word16
  samode : Byte
  span   : Word16
  lvreq  : Byte
  lvrem  : Byte
  lvrej  : Byte
deriving DecidableEq, Repr

/-- A byte memory: (address, byte) pairs, addresses strictly rising; an address not listed has no value of its own
(entry 2). `Memory.wf` (Machine/Memory.lean) is this form. -/
abbrev Memory := List Host.Cell

structure State where
  /-- `Cfg` (R8); no step writes it (entry 1). -/
  cfg : Cfg
  /-- `FB` (R21). -/
  fb : Memory
  /-- `XM` (R22). -/
  xm : Memory
  /-- `SEL` (R23). -/
  sel : Bool
  /-- `PH` (R24). -/
  ph : Phase
  /-- `DS` (R25). -/
  ds : DState
  /-- `EXP` (R26). -/
  exp : Word16
  /-- `EXPV` (R26). -/
  expv : Bool
  /-- `SPIN` (R27); not readable by the Host. -/
  spin : Nat
  /-- `ITER` (R33); a natural number (D35). -/
  iter : Nat
  /-- `WID` (R33). -/
  wid : Word16
  /-- `XOFF` (R34). -/
  xoff : Word16
  /-- `CMD` (R28). -/
  cmd : Byte
  /-- `STAT.BUSY` (R29). -/
  busy : Bool
  /-- `STAT.DONE` (R29). -/
  done : Bool
  /-- `STAT.MSGW` (R29, R145). -/
  msgw : Bool
  /-- `RES` (R29). -/
  res : Byte
  /-- `CTRL.AUTOWAIT` (R32). -/
  autowait : Bool
  /-- `CTRL.VERBOSE` (R32). -/
  verbose : Bool
  /-- `TSEQ` (R30). -/
  tseq : Byte
  /-- `ACKM` (R31). -/
  ackm : Byte
  /-- `A_*` (R35). -/
  a : Operands
  /-- `KIND`, `KFLAGS`, `K_*` (R36). -/
  k : ClassOut
  /-- `TR`, oldest event first (R37). -/
  tr : List Event
  /-- MODEL's own (entry 4): `AFSENDX` has exchanged its begin frame. -/
  begun : Bool
  /-- MODEL's own (entry 4): the kind the failed exchange returns when `PH` leaves `ERROR`. -/
  errk : ResultKind
  /-- MODEL's own (entry 3): the Module's next ready levels. -/
  ready : List Bool
  /-- MODEL's own (entry 3): the Module's next bytes. -/
  rx : List Byte
  /-- MODEL's own (entry 3): how many free answers have been used. -/
  draws : Nat
  /-- MODEL's own (entry 8): the Bus collaborator is initialised (R284 a). -/
  busUp : Bool
  /-- MODEL's own (entry 9): the Host's actions to come. -/
  host : List HostAct
  /-- MODEL's own (entry 9): the Host is waiting for `DONE = 1`. -/
  hostWaits : Bool
  /-- MODEL's own (entry 9): the value of the Host's last read. -/
  hostRd : Word64
deriving DecidableEq, Repr

/-- The model faults of R270: Host actions with no defined behaviour. Each stops the run (entry 12), which is safe: the
hardware would do something, the model says nothing. -/
inductive Fault where
  /-- R270 (a): a `CMD` write while `BUSY = 1`. Raised by every host operation and by `HostAct.start`. Safe. -/
  | cmdWhileBusy
  /-- R270 (b): a Host access to `FB` or `XM` while `BUSY = 1`. Raised by `fbw`, `xmw`, `fbr`, `xmr`. Safe. -/
  | memoryWhileBusy
  /-- R270 (c): a Host write of a register, or a read of one other than `STAT`, `PH`, `DS`, while `BUSY = 1`. Raised
  by `set`, `get`. Safe. -/
  | registerWhileBusy
  /-- R270 (d): an operation that runs exchanges, on an uninitialised Bus. Raised by seven host operations. Safe. -/
  | busNotInitialised
  /-- R270 (e): a `Cfg` that violates R9. Raised by `step` and by every host operation. Safe. -/
  | badConfig
  /-- Entry 11: a Host access to an address `FB` does not have. Raised by `fbw`, `fbr`. Safe. -/
  | noSuchFbAddress
  /-- Entry 11: a Host access to an address `XM` does not have. Raised by `xmw`, `xmr`. Safe. -/
  | noSuchXmAddress
deriving DecidableEq, Repr

/-- Rejections. No meaning refuses; the one constructor is the fixed name for an instruction without a meaning. -/
inductive Refusal where
  /-- An arm of `exec` that has no meaning yet; none is left. Safe. -/
  | notModelled (mnemonic : String)
deriving DecidableEq, Repr

/-- All operand registers at 0 (R281). -/
def Operands.zero : Operands :=
  { cid := 0, len := 0, flags := 0, soff := 0, tmo := 0, nid := 0, daddr := 0, amode := 0, dep := 0, sep := 0,
    clus := 0, dptr := 0, dlen := 0, key := 0 }

/-- All classifier outputs at 0 (R281). -/
def ClassOut.zero : ClassOut :=
  { kind := 0, kflags := 0, cid := 0, len := 0, status := 0, ep := 0, tid := 0, addr1 := 0, addr2 := 0, mac := 0,
    cap := 0, state := 0, group := 0, clus := 0, sep := 0, dep := 0, bcast := 0, lqi := 0, sec := 0, ts := 0,
    tseq := 0, dlen := 0, doff := 0, samode := 0, span := 0, lvreq := 0, lvrem := 0, lvrej := 0 }

/-- The block right after a reset under a configuration: the table of R281. The model's own fields are entry 25. -/
def State.resetWith (c : Cfg) : State :=
  { cfg := c, fb := [], xm := [], sel := false, ph := .idle, ds := .dIdle, exp := 0, expv := false, spin := 0,
    iter := 0, wid := 0, xoff := 0, cmd := 0, busy := false, done := false, msgw := false, res := 0,
    autowait := true, verbose := false, tseq := 0, ackm := 0, a := Operands.zero, k := ClassOut.zero, tr := [],
    begun := false, errk := .moduleSuccess, ready := [], rx := [], draws := 0, busUp := false, host := [],
    hostWaits := false, hostRd := 0 }

/-- The machine right after reset (R281); the configuration is entry 1's DESIGN CHOICE. -/
def State.reset : State := State.resetWith Config.vectors

end Sys2Proof.Machine
end

