-- ==== Sys2Proof/Machine/Memory.lean ====
section
/-! DEFINITION. Byte memories in canonical form: the addresses strictly rising and below the memory's size. An address
not listed has no value of its own, so a write never removes an entry (entry 2). -/
namespace Sys2Proof.Machine

/-- The byte written at an address, if any. -/
def memGet : Memory → Nat → Option Byte
  | [], _ => none
  | (b, v) :: m, a => if a = b then some v else memGet m a

/-- Write one byte, keeping the addresses rising. -/
def memSet : Memory → Nat → Byte → Memory
  | [], a, v => [(a, v)]
  | (b, w) :: m, a, v =>
    if a < b then (a, v) :: (b, w) :: m
    else if a = b then (a, v) :: m
    else (b, w) :: memSet m a v

/-- Write consecutive bytes of a memory of `size` bytes; an address it does not have is left out (entry 20). -/
def memPut (size : Nat) : Memory → Nat → List Byte → Memory
  | m, _, [] => m
  | m, a, v :: vs => memPut size (if a < size then memSet m a v else m) (a + 1) vs

/-- The canonical form: addresses strictly rising, all below `size`. -/
def Memory.wf (size : Nat) (m : Memory) : Bool :=
  decide (m.Pairwise (fun x y => x.1 < y.1)) && m.all (fun x => decide (x.1 < size))

end Sys2Proof.Machine
end

