-- ==== Sys2Proof/Machine/Ops.lean ====
section
/-! DEFINITION. The named operations over memory, the Bus port and the result: every access to `FB` and `XM`, the four
Bus primitives (R71 to R74), the failure sequence (R260) and the end of an operation (R262). -/
namespace Sys2Proof.Machine

/-! ### Memory -/

/-- `FB[a]`: the byte last written there, else a free value (R21, entry 2). -/
def State.fbAt (s : State) (a : Nat) : Byte := (memGet s.fb a).getD (Config.fbInit a)

/-- `XM[a]` (R22, entry 2). -/
def State.xmAt (s : State) (a : Nat) : Byte := (memGet s.xm a).getD (Config.xmInit a)

/-- `FB[a .. a+n-1]` as a list (R12 `MemRead`). -/
def State.fbBytes (s : State) (a n : Nat) : List Byte := (List.range n).map (fun i => s.fbAt (a + i))

/-- `XM[a .. a+n-1]` as a list (R12 `MemRead`). -/
def State.xmBytes (s : State) (a n : Nat) : List Byte := (List.range n).map (fun i => s.xmAt (a + i))

/-- Write consecutive bytes of `FB` (R12 `MemWrite`). -/
def State.fbPut (s : State) (a : Nat) (bs : List Byte) : State := { s with fb := memPut s.cfg.cap s.fb a bs }

/-- Write consecutive bytes of `XM` (R12 `MemWrite`). -/
def State.xmPut (s : State) (a : Nat) (bs : List Byte) : State := { s with xm := memPut s.cfg.xcap s.xm a bs }

/-- `cmd(FB) = BE16(FB[1], FB[2])` (R12, R62). -/
def State.frameCid (s : State) : Word16 := be16 (s.fbAt 1) (s.fbAt 2)

/-- The length byte of the frame in `FB`, as a number (R64). -/
def State.frameLen (s : State) : Nat := (s.fbAt 0).toNat

/-- Write a header into `FB` (R92). -/
def State.putHeader (s : State) (len : Byte) (id : Word16) : State := s.fbPut 0 [len, msb id, lsb id]

/-- Zero the header region (R136). -/
def State.zeroHeader (s : State) : State := s.fbPut 0 [0#8, 0#8, 0#8]

/-- Write bytes at a payload offset (R96). -/
def State.putField (s : State) (off : Nat) (bs : List Byte) : State := s.fbPut (hdr + off) bs

/-! ### Trace and sequencing -/

/-- Append one event to the trace (R37, R76). -/
def State.emit (s : State) (e : Event) : State := { s with tr := s.tr ++ [e] }

/-- `PH <- p` (R12). -/
def State.toPh (s : State) (p : Phase) : State := { s with ph := p }

/-- `DS <- d` (R12). -/
def State.toDs (s : State) (d : DState) : State := { s with ds := d }

/-! ### The Bus port -/

/-- `Bus.setSelect(b)` (R71). -/
def State.setSelect (s : State) (b : Bool) : State := { s with sel := b, tr := s.tr ++ [.setSel b] }

/-- `Bus.reset()` (R74): deselect, pulse `BUSRST`, nothing else of the block. -/
def State.busReset (s : State) : State := { s with sel := false, tr := s.tr ++ [.busReset] }

/-- The level the next `Bus.readReady()` returns: the Module's next listed answer, else a free one (R72, entry 3). -/
def State.nextReady (s : State) : Bool :=
  match s.ready with
  | v :: _ => v
  | [] => Config.freeReady s.draws

/-- The state after `Bus.readReady()` (R72): the answer is consumed and recorded. -/
def State.sampled (s : State) : State :=
  { s with
    ready := s.ready.tail
    draws := if s.ready.isEmpty then s.draws + 1 else s.draws
    tr := s.tr ++ [.rdRdy s.nextReady] }

/-- The next `n` bytes the Module answers: its listed ones, then free ones (R73, entry 3). -/
def State.nextBytes (s : State) (n : Nat) : List Byte :=
  s.rx.take n ++ (List.range (n - s.rx.length)).map (fun i => Config.freeByte (s.draws + i))

/-- `Bus.transfer(off, n)` in place on `FB` (R73): every byte is sent before it is overwritten; `n = 0` does
nothing and appends nothing. -/
def State.transfer (s : State) (off n : Nat) : State :=
  if n = 0 then s
  else
    { s with
      fb := memPut s.cfg.cap s.fb off (s.nextBytes n)
      rx := s.rx.drop n
      draws := s.draws + (n - s.rx.length)
      tr := s.tr ++ [.xfer (s.fbBytes off n) (s.nextBytes n)] }

/-! ### Results -/

/-- `rc` (R110): 0 for success, the configured code for the other kinds. -/
def ResultCodes.code (r : ResultCodes) : ResultKind → Byte
  | .moduleSuccess => 0x00#8
  | .invalidParameter => r.invalidParameter
  | .nullParameter => r.nullParameter
  | .invalidLength => r.invalidLength
  | .invalidCluster => r.invalidCluster
  | .chipSelectTimeout => r.chipSelectTimeout
  | .srspTimeout => r.srspTimeout
  | .incorrectSrsp => r.incorrectSrsp
  | .phyOtherError => r.phyOtherError
  | .timeout => r.timeout

/-- The diagnostics event of an operation that ends with `v` (R266). -/
def State.diagEvents (s : State) (v : Byte) : List Event :=
  if v ≠ 0#8 ∧ s.verbose = true then [.diag s.cmd v] else []

/-- `end with v` and `fail v` (R262): one atomic write of the result; `DS` passes `D_DONE` unseen (entry 14). -/
def State.endOp (s : State) (v : Byte) : State :=
  { s with res := v, tr := s.tr ++ s.diagEvents v, busy := false, done := true, ds := .dIdle }

/-- `fail K` for a named kind (R12). -/
def State.failWith (s : State) (k : ResultKind) : State := s.endOp (ResultCodes.code s.cfg.rc k)

/-- The first two steps of the failure sequence of a transport error inside an exchange (R260): `PH <- ERROR`, one
Bus reset; the kind is latched for the step that leaves `ERROR` (entry 4). -/
def State.exchangeError (s : State) (k : ResultKind) : State := { s.busReset with ph := .error, errk := k }

/-- The rest of the failure sequence (R260): `PH <- IDLE`, and the operation ends with the kind. -/
def State.leaveError (s : State) : State := (s.toPh .idle).failWith s.errk

end Sys2Proof.Machine
end

