-- ==== Sys2Proof/Machine/Operands.lean ====
section
/-! DEFINITION. Operand forms: the flag bits of `A_FLAGS`, the views `STAT` and `CTRL`, the numbers of `PH`, `DS` and
`KIND`, the chunk arithmetic, and the Host's register map (R29, R32, R35, R36, R39). -/
namespace Sys2Proof.Machine

/-- `A_FLAGS.SVAL` (R35 bit 0): the response has a status byte. -/
def State.sval (s : State) : Bool := s.a.flags.getLsbD 0
/-- `A_FLAGS.WAIT` (R35 bit 1): wait for notification `A_NID`. -/
def State.waitFlag (s : State) : Bool := s.a.flags.getLsbD 1
/-- `A_FLAGS.DVAL` (R35 bit 2): a data buffer is supplied. -/
def State.dval (s : State) : Bool := s.a.flags.getLsbD 2

/-- `STAT` as the Host reads it (R29): bits 7:3 read as 0. -/
def State.stat (s : State) : Byte := 0#5 ++ BitVec.ofBool s.msgw ++ BitVec.ofBool s.done ++ BitVec.ofBool s.busy
/-- `CTRL` as the Host reads it (R32): bits 7:2 read as 0. -/
def State.ctrl (s : State) : Byte := 0#6 ++ BitVec.ofBool s.verbose ++ BitVec.ofBool s.autowait

/-- The value of `PH` (R24). -/
def Phase.code : Phase → BitVec 4
  | .idle => 0 | .selectAsserted => 1 | .awaitingReady => 2 | .transferring => 3 | .awaitingReadyRelease => 4
  | .rxHeader => 5 | .rxPayload => 6 | .complete => 7 | .error => 8

/-- The value of `DS` (R25). -/
def DState.code : DState → BitVec 4
  | .dIdle => 0 | .dValidate => 1 | .dBuild => 2 | .dExchange => 3 | .dStatus => 4 | .dWaitSample => 5
  | .dWaitPoll => 6 | .dWaitClassify => 7 | .dWaitDelay => 8 | .dChunk => 9 | .dDone => 10

/-- The value of `KIND` (R112). -/
def Variant.code : Variant → Byte
  | .noMessage => 0 | .syncResponse => 1 | .stateChange => 2 | .announce => 3 | .deviceLeave => 4 | .incoming => 5
  | .incomingExt => 6 | .dataConfirm => 7 | .unknown => 15

/-- The length of the next chunk, `min(CHUNK_MAX, A_DLEN - XOFF)` (R191). -/
def State.chunkLen (s : State) : Nat := min s.cfg.chunkMax (s.a.dlen.toNat - s.xoff.toNat)

/-- The iteration count of a notification wait, `ceil(tmo * 1000 / POLL_MS)` (R167). -/
def State.iterations (s : State) (tmo : Byte) : Nat := ceilDiv (tmo.toNat * 1000) s.cfg.pollMs

/-- The running operation polls: `XCHG.POLL`, or the poll of a notification wait (R130, R166). -/
def State.polling (s : State) : Bool := s.ds == .dWaitPoll || s.cmd == 0x02#8

/-- A Host read of a register by number (R39, R35, R36): a number not listed reads 0. A value narrower than the port
is zero-extended. `A_FLAGS` reads back whole, its reserved bits 7:3 as written (entry 32, DESIGN CHOICE). -/
def State.readReg (s : State) (reg : Nat) : Word64 :=
  match reg with
  | 0x00 => s.cmd.setWidth 64
  | 0x01 => s.stat.setWidth 64
  | 0x02 => s.res.setWidth 64
  | 0x03 => s.ph.code.setWidth 64
  | 0x04 => s.ds.code.setWidth 64
  | 0x05 => s.ctrl.setWidth 64
  | 0x06 => s.tseq.setWidth 64
  | 0x07 => s.ackm.setWidth 64
  | 0x08 => s.a.cid.setWidth 64
  | 0x0A => s.a.len.setWidth 64
  | 0x0B => s.a.flags.setWidth 64
  | 0x0C => s.a.soff.setWidth 64
  | 0x0D => s.a.tmo.setWidth 64
  | 0x0E => s.a.nid.setWidth 64
  | 0x10 => s.a.daddr
  | 0x18 => s.a.amode.setWidth 64
  | 0x19 => s.a.dep.setWidth 64
  | 0x1A => s.a.sep.setWidth 64
  | 0x1C => s.a.clus.setWidth 64
  | 0x1E => s.a.dptr.setWidth 64
  | 0x20 => s.a.dlen.setWidth 64
  | 0x24 => s.a.key.setWidth 64
  | 0x28 => s.exp.setWidth 64
  | 0x2A => (BitVec.ofBool s.expv).setWidth 64
  | 0x2C => (BitVec.ofNat 16 s.iter).setWidth 64
  | 0x2E => s.wid.setWidth 64
  | 0x30 => s.xoff.setWidth 64
  | 0x40 => s.k.kind.setWidth 64
  | 0x41 => s.k.kflags.setWidth 64
  | 0x42 => s.k.cid.setWidth 64
  | 0x44 => s.k.len.setWidth 64
  | 0x45 => s.k.status.setWidth 64
  | 0x46 => s.k.ep.setWidth 64
  | 0x47 => s.k.tid.setWidth 64
  | 0x48 => s.k.addr1.setWidth 64
  | 0x4A => s.k.addr2.setWidth 64
  | 0x50 => s.k.mac
  | 0x58 => s.k.cap.setWidth 64
  | 0x59 => s.k.state.setWidth 64
  | 0x5A => s.k.group.setWidth 64
  | 0x5C => s.k.clus.setWidth 64
  | 0x5E => s.k.sep.setWidth 64
  | 0x5F => s.k.dep.setWidth 64
  | 0x60 => s.k.bcast.setWidth 64
  | 0x61 => s.k.lqi.setWidth 64
  | 0x62 => s.k.sec.setWidth 64
  | 0x64 => s.k.ts.setWidth 64
  | 0x68 => s.k.tseq.setWidth 64
  | 0x6A => s.k.dlen.setWidth 64
  | 0x6C => s.k.doff.setWidth 64
  | 0x6E => s.k.samode.setWidth 64
  | 0x70 => s.k.span.setWidth 64
  | 0x72 => s.k.lvreq.setWidth 64
  | 0x73 => s.k.lvrem.setWidth 64
  | 0x74 => s.k.lvrej.setWidth 64
  | _ => 0

/-- A Host write of an operand register by number (R35); any other number leaves them. `A_FLAGS` keeps all eight bits; no
operation looks at its reserved bits 7:3 (entry 32, DESIGN CHOICE). -/
def Operands.write (a : Operands) (reg : Nat) (v : Word64) : Operands :=
  match reg with
  | 0x08 => { a with cid := v.setWidth 16 }
  | 0x0A => { a with len := v.setWidth 8 }
  | 0x0B => { a with flags := v.setWidth 8 }
  | 0x0C => { a with soff := v.setWidth 8 }
  | 0x0D => { a with tmo := v.setWidth 8 }
  | 0x0E => { a with nid := v.setWidth 16 }
  | 0x10 => { a with daddr := v }
  | 0x18 => { a with amode := v.setWidth 8 }
  | 0x19 => { a with dep := v.setWidth 8 }
  | 0x1A => { a with sep := v.setWidth 8 }
  | 0x1C => { a with clus := v.setWidth 16 }
  | 0x1E => { a with dptr := v.setWidth 16 }
  | 0x20 => { a with dlen := v.setWidth 16 }
  | 0x24 => { a with key := v.setWidth 32 }
  | _ => a

/-- A Host write of a register by number other than `CMD` (R30, R31, R32, R35, R39): the session, control and operand
registers take the value's low bits; a reserved number ignores the write, and so does a read-only register
(entry 10). -/
def State.writeReg (s : State) (reg : Nat) (v : Word64) : State :=
  match reg with
  | 0x05 => { s with autowait := v.getLsbD 0, verbose := v.getLsbD 1 }
  | 0x06 => { s with tseq := v.setWidth 8 }
  | 0x07 => { s with ackm := v.setWidth 8 }
  | _ => { s with a := s.a.write reg v }

/-- The registers a Host may read while `BUSY = 1`: `STAT`, `PH`, `DS` (R39, R270 c). -/
def readableBusy (reg : Nat) : Bool := reg == 0x01 || reg == 0x03 || reg == 0x04

end Sys2Proof.Machine
end

