-- ==== Sys2Proof/Machine/Flags.lean ====
section
/-! DEFINITION. Payload fields of the frame in `FB` and the classifier's flags `TRUNC` and `INLINE` (R96, R213,
R220). -/
namespace Sys2Proof.Machine

/-- The payload byte at an offset (R64, R96). -/
def State.field8 (s : State) (off : Nat) : Byte := s.fbAt (hdr + off)

/-- The number a schema field of the frame in `FB` holds: its bytes, least significant first (R96, R62 b, c, R100). -/
def State.fieldNat (s : State) (f : Field) : Nat := leNat (s.fbBytes (hdr + f.off) f.width)

/-- A schema field as a register of `w` bits takes it (R96, R100). -/
def State.field (s : State) (w : Nat) (f : Field) : BitVec w := BitVec.ofNat w (s.fieldNat f)

/-- `minlen(v, FB)` of R213 for a frame of length `len`. -/
def State.minLen (s : State) (v : Variant) (len : Nat) : Nat :=
  match v with
  | .noMessage => 0
  | .syncResponse => 0
  | .stateChange => s.cfg.schema.stateChange.fixed
  | .announce => s.cfg.schema.announce.fixed
  | .deviceLeave => s.cfg.schema.leave.fixed
  | .incoming =>
    if len < s.cfg.schema.incoming.fixed then s.cfg.schema.incoming.fixed
    else s.cfg.schema.incoming.fixed + s.fieldNat s.cfg.schema.incoming.dlen
  | .incomingExt => s.cfg.schema.incomingExt.fixed
  | .dataConfirm => s.cfg.schema.confirm.fixed
  | .unknown => 0

/-- `KFLAGS.TRUNC` (R211, R213): the frame is shorter than its variant needs. -/
def State.truncFlag (s : State) (v : Variant) (len : Nat) : Bool := decide (len < s.minLen v len)

/-- `KFLAGS.INLINE` (R220): an extended message carries its data in the frame; 0 for the other variants. -/
def State.inlineFlag (s : State) (v : Variant) (len : Nat) : Bool :=
  match v with
  | .incomingExt =>
    decide (s.cfg.schema.incomingExt.fixed + s.fieldNat s.cfg.schema.incomingExt.dlen ≤ len)
  | .noMessage => false
  | .syncResponse => false
  | .stateChange => false
  | .announce => false
  | .deviceLeave => false
  | .incoming => false
  | .dataConfirm => false
  | .unknown => false

/-- `KFLAGS` (R36): bit 0 `TRUNC`, bit 1 `INLINE`, bits 7:2 zero. -/
def State.kflags (s : State) (v : Variant) (len : Nat) : Byte :=
  0#6 ++ BitVec.ofBool (s.inlineFlag v len) ++ BitVec.ofBool (s.truncFlag v len)

end Sys2Proof.Machine
end

