-- ==== Sys2Proof/Machine/Classifier.lean ====
section
/-! DEFINITION. The Notification Classifier (R210 to R224): a pure function of (`FB`, `EXP`, `EXPV`) and the
configuration (R223, C4). -/
namespace Sys2Proof.Machine

/-- Tests (3) to (9) of R212: the variant a command id alone selects. -/
def variantOfId (c : CommandIds) (id : Word16) : Variant :=
  if id = c.zdoStateChangeInd then .stateChange
  else if id = c.zdoEndDeviceAnnceInd then .announce
  else if id = c.zdoLeaveInd then .deviceLeave
  else if id = c.afIncomingMsg then .incoming
  else if id = c.afIncomingMsgExt then .incomingExt
  else if id = c.afDataConfirm then .dataConfirm
  else .unknown

/-- The order of R212: (1) length 0, (2) the expected id, then `v`, the variant of the frame's id. -/
def State.selectVariant (s : State) (v : Variant) (len : Byte) (id : Word16) : Variant :=
  if len = 0#8 then .noMessage
  else if s.expv = true ∧ id = s.exp then .syncResponse
  else v

/-- The field registers a variant writes (R214 to R222); the other registers keep their values (R36). A field at or
beyond the frame's length is read from stale bytes (R213, entry 16). -/
def State.extract (s : State) (v : Variant) (k : ClassOut) : ClassOut :=
  match v with
  | .noMessage => k
  | .syncResponse => k
  | .unknown => k
  | .stateChange => { k with state := s.field 8 s.cfg.schema.stateChange.state }
  | .announce =>
    { k with
      addr1 := s.field 16 s.cfg.schema.announce.addr1
      addr2 := s.field 16 s.cfg.schema.announce.addr2
      mac := s.field 64 s.cfg.schema.announce.mac
      cap := s.field 8 s.cfg.schema.announce.cap }
  | .deviceLeave =>
    { k with
      addr1 := s.field 16 s.cfg.schema.leave.addr1
      mac := s.field 64 s.cfg.schema.leave.mac
      lvreq := s.field 8 s.cfg.schema.leave.req
      lvrem := s.field 8 s.cfg.schema.leave.rem
      lvrej := s.field 8 s.cfg.schema.leave.rej }
  | .incoming =>
    { k with
      group := s.field 16 s.cfg.schema.incoming.group
      clus := s.field 16 s.cfg.schema.incoming.clus
      addr1 := s.field 16 s.cfg.schema.incoming.addr1
      sep := s.field 8 s.cfg.schema.incoming.sep
      dep := s.field 8 s.cfg.schema.incoming.dep
      bcast := s.field 8 s.cfg.schema.incoming.bcast
      lqi := s.field 8 s.cfg.schema.incoming.lqi
      sec := s.field 8 s.cfg.schema.incoming.sec
      ts := s.field 32 s.cfg.schema.incoming.ts
      tseq := s.field 8 s.cfg.schema.incoming.tseq
      dlen := s.field 16 s.cfg.schema.incoming.dlen
      doff := BitVec.ofNat 16 (hdr + s.cfg.schema.incoming.fixed) }
  | .incomingExt =>
    { k with
      group := s.field 16 s.cfg.schema.incomingExt.group
      clus := s.field 16 s.cfg.schema.incomingExt.clus
      samode := s.field 8 s.cfg.schema.incomingExt.samode
      mac := s.field 64 s.cfg.schema.incomingExt.mac
      sep := s.field 8 s.cfg.schema.incomingExt.sep
      span := s.field 16 s.cfg.schema.incomingExt.span
      dep := s.field 8 s.cfg.schema.incomingExt.dep
      bcast := s.field 8 s.cfg.schema.incomingExt.bcast
      lqi := s.field 8 s.cfg.schema.incomingExt.lqi
      sec := s.field 8 s.cfg.schema.incomingExt.sec
      ts := s.field 32 s.cfg.schema.incomingExt.ts
      tseq := s.field 8 s.cfg.schema.incomingExt.tseq
      dlen := s.field 16 s.cfg.schema.incomingExt.dlen
      doff := BitVec.ofNat 16 (hdr + s.cfg.schema.incomingExt.fixed) }
  | .dataConfirm =>
    { k with
      status := s.field 8 s.cfg.schema.confirm.status
      ep := s.field 8 s.cfg.schema.confirm.ep
      tid := s.field 8 s.cfg.schema.confirm.tid }

/-- The registers every variant writes (R36, R211). -/
def State.classCommon (s : State) (v : Variant) (len : Byte) (id : Word16) : ClassOut :=
  { s.k with kind := v.code, kflags := s.kflags v len.toNat, cid := id, len := len }

/-- `CLASSIFY()` (R211) of the frame in `FB` with header (`len`, `id`), where the id alone selects `v`: the classifier
registers and one `Demux` event, nothing else. -/
def State.classifyAs (s : State) (v : Variant) (len : Byte) (id : Word16) : State :=
  { s with
    k := s.extract (s.selectVariant v len id) (s.classCommon (s.selectVariant v len id) len id)
    tr := s.tr ++ [.demux (s.selectVariant v len id).code id] }

end Sys2Proof.Machine
end

