-- ==== Sys2Proof/Machine/Exchange.lean ====
section
/-! DEFINITION. The Transport Engine: the procedure `XCHG(mode)` of R134 cut into the block's steps, one for each value
of `PH` (R133), and one ready sample of `await` (R132). A step that fails enters `PH = ERROR` (R260). -/
namespace Sys2Proof.Machine

/-- Start of `XCHG(POLL)` (R134, R136, R141): the engine zeroes the header, clears `EXPV` and asserts select. -/
def State.pollStart (s : State) : State :=
  ({ s.zeroHeader with expv := false }.setSelect true).toPh .selectAsserted

/-- Start of `XCHG(RR)` (R134): the send-side length check (R139 a), the latch of `EXP` (R26), select asserted. -/
def State.requestStart (s : State) : State :=
  if s.cfg.nmax < s.frameLen then s.exchangeError .phyOtherError
  else ({ s with exp := resp s.frameCid, expv := true }.setSelect true).toPh .selectAsserted

/-- `SPIN <- T`, not used when `T = INF` (R132). -/
def State.loadSpin (s : State) (b : Bound) : State :=
  match b with
  | .fin n => { s with spin := n }
  | .inf => s

/-- One pass of the loop of `await(level, T)` (R132): one sample; the awaited level leads to `next`, the `T`-th wrong
sample to the failure `k`. -/
def State.awaitStep (s : State) (level : Bool) (b : Bound) (next : Phase) (k : ResultKind) : State :=
  if s.nextReady = level then s.sampled.toPh next
  else
    match b with
    | .inf => s.sampled
    | .fin _ =>
      if s.spin - 1 = 0 then { s.sampled with spin := s.spin - 1 }.exchangeError k
      else { s.sampled with spin := s.spin - 1 }

/-- `PH = SELECT_ASSERTED`: on to the first wait (R134). -/
def State.selectStep (s : State) : State := (s.toPh .awaitingReady).loadSpin s.cfg.tCs

/-- `PH = AWAITING_READY`: one sample of `await(1, T_CS)` (R137). -/
def State.readyStep (s : State) : State := s.awaitStep true s.cfg.tCs .transferring .chipSelectTimeout

/-- `PH = TRANSFERRING`: header and payload go out as one transfer, then the header is zeroed (R136). -/
def State.sendStep (s : State) : State :=
  ((s.transfer 0 (hdr + s.frameLen)).zeroHeader.toPh .awaitingReadyRelease).loadSpin s.cfg.tSrsp

/-- `PH = AWAITING_READY_RELEASE`: one sample of `await(0, T_SRSP)` (R138). -/
def State.releaseStep (s : State) : State := s.awaitStep false s.cfg.tSrsp .rxHeader .srspTimeout

/-- The test of the received length (R134, R139 b). -/
def State.headerReceived (s : State) : State :=
  if s.cfg.nmax < s.frameLen then s.exchangeError .phyOtherError
  else if s.frameLen = 0 then (s.setSelect false).toPh .complete
  else s.toPh .rxPayload

/-- `PH = RX_HEADER`: the response header comes in (R134). -/
def State.headerStep (s : State) : State := (s.transfer 0 hdr).headerReceived

/-- `PH = RX_PAYLOAD`: the response payload comes in, select is released (R134). -/
def State.payloadStep (s : State) : State := ((s.transfer hdr s.frameLen).setSelect false).toPh .complete

/-- The id of a response does not pair with its request (R134, R140); a poll validates no id (R141). -/
def State.mismatched (s : State) : Bool := !s.polling && s.frameCid != s.exp

end Sys2Proof.Machine
end

