-- ==== Sys2Proof/Syntax.lean ====
section
/-! DEFINITION. The instructions: one constructor per row of spec/opcode_table.json. The nine host operations have no
operand fields (R113). A frame row carries the header bits its row leaves open: the length byte, or for `NO_MESSAGE`
the command id (R90, R95). What it means to execute a frame row is entry 6. -/
namespace Sys2Proof

/-- The three formats of the opcode table (30_encoding.md). -/
inductive Format where
  | hostop | frameTx | frameRx
deriving DecidableEq, Repr

inductive Instr where
  /-- `XCHG.RR`, 0x01 (R140). -/
  | xchgRr
  /-- `XCHG.POLL`, 0x02 (R141). -/
  | xchgPoll
  /-- `RDYQ`, 0x03 (R145). -/
  | rdyq
  /-- `CLSFY`, 0x04 (R210). -/
  | clsfy
  /-- `WAITN`, 0x05 (R165). -/
  | waitn
  /-- `SREQ`, 0x10 (R162). -/
  | sreq
  /-- `AFSEND`, 0x11 (R170). -/
  | afsend
  /-- `AFSENDX`, 0x12 (R190). -/
  | afsendx
  /-- `AFRETRX`, 0x13 (R196). -/
  | afretrx
  /-- `POLL`, the all-zero header (R94). -/
  | poll
  /-- `NO_MESSAGE`, length 0, any id (R95). -/
  | noMessage (cid : Word16)
  /-- `AF_DATA_REQUEST`, length 10 + n (R102). -/
  | afDataRequest (len : Byte)
  /-- Response to `AF_DATA_REQUEST` (R106). -/
  | afDataRequestSrsp (len : Byte)
  /-- `AF_DATA_REQUEST_EXT`, length fixed (R103). -/
  | afDataRequestExt
  /-- Response to `AF_DATA_REQUEST_EXT` (R106). -/
  | afDataRequestExtSrsp (len : Byte)
  /-- `AF_DATA_STORE`, length 3 + n (R104). -/
  | afDataStore (len : Byte)
  /-- Response to `AF_DATA_STORE` (R106). -/
  | afDataStoreSrsp (len : Byte)
  /-- `AF_DATA_RETRIEVE`, length fixed (R105). -/
  | afDataRetrieve
  /-- Response to `AF_DATA_RETRIEVE` (R105). -/
  | afDataRetrieveSrsp (len : Byte)
  /-- `AF_DATA_CONFIRM` (R221). -/
  | afDataConfirm (len : Byte)
  /-- `AF_INCOMING_MSG` (R219). -/
  | afIncomingMsg (len : Byte)
  /-- `AF_INCOMING_MSG_EXT` (R220). -/
  | afIncomingMsgExt (len : Byte)
  /-- `ZDO_STATE_CHANGE_IND` (R216). -/
  | zdoStateChangeInd (len : Byte)
  /-- `ZDO_END_DEVICE_ANNCE_IND` (R217). -/
  | zdoEndDeviceAnnceInd (len : Byte)
  /-- `ZDO_LEAVE_IND` (R218). -/
  | zdoLeaveInd (len : Byte)
deriving DecidableEq, Repr

/-- The format column of an instruction's row. -/
def Instr.format : Instr → Format
  | .xchgRr | .xchgPoll | .rdyq | .clsfy | .waitn | .sreq | .afsend | .afsendx | .afretrx => .hostop
  | .poll | .afDataRequest _ | .afDataRequestExt | .afDataStore _ | .afDataRetrieve => .frameTx
  | .noMessage _ | .afDataRequestSrsp _ | .afDataRequestExtSrsp _ | .afDataStoreSrsp _ | .afDataRetrieveSrsp _
  | .afDataConfirm _ | .afIncomingMsg _ | .afIncomingMsgExt _ | .zdoStateChangeInd _ | .zdoEndDeviceAnnceInd _
  | .zdoLeaveInd _ => .frameRx

/-- How many bytes a row's word has: the `CMD` byte, or the 24-bit header. -/
def Format.bytes : Format → Nat
  | .hostop => 1
  | .frameTx => 3
  | .frameRx => 3

end Sys2Proof
end

