-- ==== Sys2Proof/WellFormed.lean ====
section
/-! DEFINITION. The constraints a `Cfg` must meet (R8, R9, R100, R101, R110) and the well-formed instructions under a
configuration: the header lengths the block builds or accepts. -/
namespace Sys2Proof

/-- A bound is positive or `INF` (R8). -/
def Bound.valid : Bound → Bool
  | .inf => true
  | .fin n => decide (1 ≤ n)

/-- The notification ids of R101. -/
def CommandIds.notifications (c : CommandIds) : List Word16 :=
  [c.afDataConfirm, c.afIncomingMsg, c.afIncomingMsgExt, c.zdoStateChangeInd, c.zdoEndDeviceAnnceInd, c.zdoLeaveInd]

/-- The request ids of R101. -/
def CommandIds.requests (c : CommandIds) : List Word16 :=
  [c.afDataRequest, c.afDataRequestExt, c.afDataStore, c.afDataRetrieve]

/-- R101: all ten pairwise distinct, and no notification id is `resp` of a request id the block builds. -/
def CommandIds.valid (c : CommandIds) : Bool :=
  decide ((c.requests ++ c.notifications).Nodup) &&
    c.requests.all (fun r => c.notifications.all (fun n => n != resp r))

/-- The nine codes as a list. -/
def ResultCodes.list (r : ResultCodes) : List Byte :=
  [r.invalidParameter, r.nullParameter, r.invalidLength, r.invalidCluster, r.chipSelectTimeout, r.srspTimeout,
    r.incorrectSrsp, r.phyOtherError, r.timeout]

/-- R110: injective, every nonzero kind in `0x31 .. 0x3B`. -/
def ResultCodes.valid (r : ResultCodes) : Bool :=
  decide r.list.Nodup && r.list.all (fun b => decide (0x31#8 ≤ b) && decide (b ≤ 0x3B#8))

/-- Every field lies inside the fixed part, is at least one byte wide and at most `max` bytes (the width of what it is
read into or written from), and the fixed part fits a frame (R9, R100, R213). -/
def fieldsFit (nmax fixed : Nat) (fields : List (Field × Nat)) : Bool :=
  decide (fixed ≤ nmax) &&
    fields.all (fun f => decide (1 ≤ f.1.width) && decide (f.1.width ≤ f.2) && decide (f.1.off + f.1.width ≤ fixed))

/-- The layouts a block of this size can hold (R9, R100; entry 21). Fields that overlap, or leave bytes of the fixed part
to no field, are accepted (entry 30). -/
def Schema.checks (s : Schema) (nmax chunkMax : Nat) : List Bool :=
  [fieldsFit nmax s.sendExt.fixed
      [(s.sendExt.amode, 1), (s.sendExt.addr, 8), (s.sendExt.dep, 1), (s.sendExt.pan, 2), (s.sendExt.sep, 1),
        (s.sendExt.clus, 2), (s.sendExt.tseq, 1), (s.sendExt.ack, 1), (s.sendExt.radius, 1), (s.sendExt.len, 2)],
    fieldsFit nmax s.store.fixed [(s.store.offset, 2), (s.store.count, 2)],
    fieldsFit nmax s.retrieve.fixed [(s.retrieve.key, 4), (s.retrieve.offset, 2), (s.retrieve.count, 2)],
    fieldsFit nmax s.retrieved.fixed [(s.retrieved.status, 1), (s.retrieved.count, 2)],
    fieldsFit nmax nmax [(s.requestSrsp.status, 1), (s.sendExtSrsp.status, 1), (s.storeSrsp.status, 1)],
    fieldsFit nmax s.stateChange.fixed [(s.stateChange.state, 1)],
    fieldsFit nmax s.announce.fixed
      [(s.announce.addr1, 2), (s.announce.addr2, 2), (s.announce.mac, 8), (s.announce.cap, 1)],
    fieldsFit nmax s.leave.fixed
      [(s.leave.addr1, 2), (s.leave.mac, 8), (s.leave.req, 1), (s.leave.rem, 1), (s.leave.rej, 1)],
    fieldsFit nmax s.incoming.fixed
      [(s.incoming.group, 2), (s.incoming.clus, 2), (s.incoming.addr1, 2), (s.incoming.sep, 1), (s.incoming.dep, 1),
        (s.incoming.bcast, 1), (s.incoming.lqi, 1), (s.incoming.sec, 1), (s.incoming.ts, 4), (s.incoming.tseq, 1),
        (s.incoming.dlen, 2)],
    fieldsFit nmax s.incomingExt.fixed
      [(s.incomingExt.group, 2), (s.incomingExt.clus, 2), (s.incomingExt.samode, 1), (s.incomingExt.mac, 8),
        (s.incomingExt.sep, 1), (s.incomingExt.span, 2), (s.incomingExt.dep, 1), (s.incomingExt.bcast, 1),
        (s.incomingExt.lqi, 1), (s.incomingExt.sec, 1), (s.incomingExt.ts, 4), (s.incomingExt.tseq, 1),
        (s.incomingExt.dlen, 2)],
    fieldsFit nmax s.confirm.fixed [(s.confirm.status, 1), (s.confirm.ep, 1), (s.confirm.tid, 1)],
    decide (1 ≤ s.sendExt.fixed),
    decide (1 ≤ s.retrieve.fixed),
    decide (s.store.fixed + chunkMax ≤ nmax),
    decide (s.retrieved.fixed + chunkMax ≤ nmax)]

/-- R8 and R9, with R101 and R110: the constraints a model must check when it is given a `Cfg` (R270 e). `radius` is not
tested: any byte is taken (entry 29, DESIGN CHOICE). -/
def Cfg.checks (c : Cfg) : List Bool :=
  [decide (hdr + 27 ≤ c.cap),
    decide (c.cap ≤ 258),
    c.tCs.valid,
    c.tSrsp.valid,
    decide (1 ≤ c.pollMs),
    decide (1 ≤ c.chunkMax),
    decide (c.chunkMax + 3 ≤ c.nmax),
    decide (c.afMaxData + requestFixed ≤ c.nmax),
    decide (1 ≤ c.xcap),
    decide (c.xcap ≤ 65536),
    decide (c.xlenMax ≤ min c.xcap 65535),
    c.cid.valid,
    c.rc.valid,
    (c.schema.checks c.nmax c.chunkMax).all id]

/-- Every constraint holds. -/
def Cfg.valid (c : Cfg) : Bool := c.checks.all id

/-- A received frame with a payload the buffer holds (R91, R95). -/
def rxLength (c : Cfg) (len : Byte) : Bool := decide (0 < len.toNat) && decide (len.toNat ≤ c.nmax)

/-- Well-formed instructions: the lengths the rows' notes give (R102, R104) and a received frame that is not
`NO_MESSAGE` and fits (R91, R95). -/
def WellFormed (c : Cfg) : Instr → Bool
  | .afDataRequest len => decide (requestFixed ≤ len.toNat) && decide (len.toNat ≤ requestFixed + c.afMaxData)
  | .afDataStore len =>
      decide (c.schema.store.fixed ≤ len.toNat) && decide (len.toNat ≤ c.schema.store.fixed + c.chunkMax)
  | .afDataRequestSrsp len => rxLength c len
  | .afDataRequestExtSrsp len => rxLength c len
  | .afDataStoreSrsp len => rxLength c len
  | .afDataRetrieveSrsp len => rxLength c len
  | .afDataConfirm len => rxLength c len
  | .afIncomingMsg len => rxLength c len
  | .afIncomingMsgExt len => rxLength c len
  | .zdoStateChangeInd len => rxLength c len
  | .zdoEndDeviceAnnceInd len => rxLength c len
  | .zdoLeaveInd len => rxLength c len
  | .xchgRr => true
  | .xchgPoll => true
  | .rdyq => true
  | .clsfy => true
  | .waitn => true
  | .sreq => true
  | .afsend => true
  | .afsendx => true
  | .afretrx => true
  | .poll => true
  | .noMessage _ => true
  | .afDataRequestExt => true
  | .afDataRetrieve => true

end Sys2Proof
end

