-- ==== Sys2Proof/Decode.lean ====
section
/-! DEFINITION. Decoding of host operations (R115, R116) and frame headers (R90, R92, R94, R95, R101), and the
encoder written from the same tables. A header does not say which way it travels: the format is an argument. -/
namespace Sys2Proof

/-- Why a byte list decodes to no row of the table. -/
inductive DecodeError where
  /-- Fewer bytes than the format's word. -/
  | tooShort
  /-- A `CMD` value not in R115: reserved (R116). -/
  | reservedOpcode (v : Byte)
  /-- A sent header of no row: a frame only the Host itself can have built (R162, R117 d). -/
  | unknownRequest (cid : Word16)
  /-- A received id of no row: `Unknown`, or the response to a Host-built request (R117 a, R222). -/
  | unknownFrame (cid : Word16)
deriving DecidableEq, Repr

/-- R115 and R116. -/
def decodeOp (v : Byte) : Except DecodeError Instr :=
  if v = 0x01#8 then .ok .xchgRr
  else if v = 0x02#8 then .ok .xchgPoll
  else if v = 0x03#8 then .ok .rdyq
  else if v = 0x04#8 then .ok .clsfy
  else if v = 0x05#8 then .ok .waitn
  else if v = 0x10#8 then .ok .sreq
  else if v = 0x11#8 then .ok .afsend
  else if v = 0x12#8 then .ok .afsendx
  else if v = 0x13#8 then .ok .afretrx
  else .error (.reservedOpcode v)

/-- The `FRAME_TX` rows: the poll idiom (R94), then by command id (R101 to R105); the two rows of fixed length match
the length too. -/
def decodeTx (c : Cfg) (len : Byte) (id : Word16) : Except DecodeError Instr :=
  if len = 0#8 ∧ id = 0#16 then .ok .poll
  else if id = c.cid.afDataRequest then .ok (.afDataRequest len)
  else if id = c.cid.afDataRequestExt ∧ len = BitVec.ofNat 8 c.schema.sendExt.fixed then .ok .afDataRequestExt
  else if id = c.cid.afDataStore then .ok (.afDataStore len)
  else if id = c.cid.afDataRetrieve ∧ len = BitVec.ofNat 8 c.schema.retrieve.fixed then .ok .afDataRetrieve
  else .error (.unknownRequest id)

/-- The `FRAME_RX` rows: `NO_MESSAGE` first, whatever the id (R95); then by command id (R101, R93). -/
def decodeRx (c : Cfg) (len : Byte) (id : Word16) : Except DecodeError Instr :=
  if len = 0#8 then .ok (.noMessage id)
  else if id = resp c.cid.afDataRequest then .ok (.afDataRequestSrsp len)
  else if id = resp c.cid.afDataRequestExt then .ok (.afDataRequestExtSrsp len)
  else if id = resp c.cid.afDataStore then .ok (.afDataStoreSrsp len)
  else if id = resp c.cid.afDataRetrieve then .ok (.afDataRetrieveSrsp len)
  else if id = c.cid.zdoStateChangeInd then .ok (.zdoStateChangeInd len)
  else if id = c.cid.zdoEndDeviceAnnceInd then .ok (.zdoEndDeviceAnnceInd len)
  else if id = c.cid.zdoLeaveInd then .ok (.zdoLeaveInd len)
  else if id = c.cid.afIncomingMsg then .ok (.afIncomingMsg len)
  else if id = c.cid.afIncomingMsgExt then .ok (.afIncomingMsgExt len)
  else if id = c.cid.afDataConfirm then .ok (.afDataConfirm len)
  else .error (.unknownFrame id)

/-- Decode the word at the front of a byte list and return the rest: one `CMD` byte, or the three header bytes
length, id MSB, id LSB (R90, R92). -/
def decode (c : Cfg) : Format → List Byte → Except DecodeError (Instr × List Byte)
  | .hostop, v :: rest => (decodeOp v).map (·, rest)
  | .frameTx, l :: m :: b :: rest => (decodeTx c l (be16 m b)).map (·, rest)
  | .frameRx, l :: m :: b :: rest => (decodeRx c l (be16 m b)).map (·, rest)
  | _, _ => .error .tooShort

/-- The header bytes of a frame (R90, R92): length, id MSB, id LSB. -/
def headerBytes (len : Byte) (id : Word16) : List Byte := [len, msb id, lsb id]

/-- The word of an instruction, from the tables of R101 and R115. -/
def encode (c : Cfg) : Instr → List Byte
  | .xchgRr => [0x01#8]
  | .xchgPoll => [0x02#8]
  | .rdyq => [0x03#8]
  | .clsfy => [0x04#8]
  | .waitn => [0x05#8]
  | .sreq => [0x10#8]
  | .afsend => [0x11#8]
  | .afsendx => [0x12#8]
  | .afretrx => [0x13#8]
  | .poll => [0#8, 0#8, 0#8]
  | .noMessage id => headerBytes 0#8 id
  | .afDataRequest len => headerBytes len c.cid.afDataRequest
  | .afDataRequestSrsp len => headerBytes len (resp c.cid.afDataRequest)
  | .afDataRequestExt => headerBytes (BitVec.ofNat 8 c.schema.sendExt.fixed) c.cid.afDataRequestExt
  | .afDataRequestExtSrsp len => headerBytes len (resp c.cid.afDataRequestExt)
  | .afDataStore len => headerBytes len c.cid.afDataStore
  | .afDataStoreSrsp len => headerBytes len (resp c.cid.afDataStore)
  | .afDataRetrieve => headerBytes (BitVec.ofNat 8 c.schema.retrieve.fixed) c.cid.afDataRetrieve
  | .afDataRetrieveSrsp len => headerBytes len (resp c.cid.afDataRetrieve)
  | .afDataConfirm len => headerBytes len c.cid.afDataConfirm
  | .afIncomingMsg len => headerBytes len c.cid.afIncomingMsg
  | .afIncomingMsgExt len => headerBytes len c.cid.afIncomingMsgExt
  | .zdoStateChangeInd len => headerBytes len c.cid.zdoStateChangeInd
  | .zdoEndDeviceAnnceInd len => headerBytes len c.cid.zdoEndDeviceAnnceInd
  | .zdoLeaveInd len => headerBytes len c.cid.zdoLeaveInd

/-- The instruction of a decode result, if there is one. -/
def decoded? (r : Except DecodeError (Instr × List Byte)) : Option Instr :=
  match r with
  | .ok (i, _) => some i
  | .error _ => none

/-- A table word of 24 bits as it lies in `FB`: the table writes the header as `FB[0] ++ FB[1] ++ FB[2]`, so the
length byte is bits 23:16 (R90). -/
def tableHeader (w : Nat) : List Byte :=
  [BitVec.ofNat 8 (w / 65536), BitVec.ofNat 8 (w / 256), BitVec.ofNat 8 w]

/-- A header word read without knowing its direction (entry 7): a sent row if one matches, else a received row. -/
def decodeHeaderWord (c : Cfg) (bytes : List Byte) : Option Instr :=
  match decoded? (decode c .frameTx bytes) with
  | some i => some i
  | none => decoded? (decode c .frameRx bytes)

/-- What the decoder reads from a word of the opcode table, with the default configuration the table is written for. -/
def decodeTableWord (nbits w : Nat) : Option Instr :=
  if nbits ≤ 8 then decoded? (decode Config.vectors .hostop [BitVec.ofNat 8 w])
  else decodeHeaderWord Config.vectors (tableHeader w)

end Sys2Proof
end

