-- ==== Sys2Proof/Machine/Frames.lean ====
section
/-! DEFINITION. Building the frames the block sends, each by its layout rule (R102 to R105, R170, R192, R193, R198).
A builder takes the length byte of the header and leaves the block at `D_EXCHANGE`. -/
namespace Sys2Proof.Machine

/-- A schema field with the value it takes: its payload offset and its bytes, least significant first (R96, R100). -/
def fieldBytes (f : Field) (v : Nat) : Nat × List Byte := (f.off, leBytes f.width v)

/-- Write a list of (payload offset, bytes) fields, in order (R96, R100). Where fields of a schema overlap the later one
in the list wins, and a byte of the fixed part in no field keeps what `FB` held (entry 30, DESIGN CHOICE). -/
def State.putFields (s : State) (fields : List (Nat × List Byte)) : State :=
  fields.foldl (fun t f => t.putField f.1 f.2) s

/-- The payload of a send-data request with `n` data bytes (R102). -/
def State.requestPayload (s : State) (n : Nat) : List Byte :=
  [byteOf s.a.daddr 0, byteOf s.a.daddr 1, s.a.dep, s.a.sep, lsb s.a.clus, msb s.a.clus, s.tseq, s.ackm,
    s.cfg.radius, BitVec.ofNat 8 n] ++ s.xmBytes s.a.dptr.toNat n

/-- The send-data request (R102, R170): `length = 10 + n`; `TSEQ` is used, then incremented (R30). -/
def State.buildRequest (s : State) (len : Byte) : State :=
  { (s.putHeader len s.cfg.cid.afDataRequest).putField 0 (s.requestPayload (len.toNat - requestFixed)) with
    tseq := s.tseq + 1, ds := .dExchange }

/-- The fields of a begin-extended-send request (R103); the destination PAN id is 0, all 8 address bytes are
written (D37). -/
def State.sendExtFields (s : State) : List (Nat × List Byte) :=
  [fieldBytes s.cfg.schema.sendExt.amode s.a.amode.toNat, fieldBytes s.cfg.schema.sendExt.addr s.a.daddr.toNat,
    fieldBytes s.cfg.schema.sendExt.dep s.a.dep.toNat, fieldBytes s.cfg.schema.sendExt.pan 0,
    fieldBytes s.cfg.schema.sendExt.sep s.a.sep.toNat, fieldBytes s.cfg.schema.sendExt.clus s.a.clus.toNat,
    fieldBytes s.cfg.schema.sendExt.tseq s.tseq.toNat, fieldBytes s.cfg.schema.sendExt.ack s.ackm.toNat,
    fieldBytes s.cfg.schema.sendExt.radius s.cfg.radius.toNat, fieldBytes s.cfg.schema.sendExt.len s.a.dlen.toNat]

/-- The begin-extended-send request (R103, R192): `TSEQ` is used, then incremented, here and nowhere else in
`AFSENDX`. -/
def State.buildSendExt (s : State) : State :=
  { (s.putHeader (BitVec.ofNat 8 s.cfg.schema.sendExt.fixed) s.cfg.cid.afDataRequestExt).putFields s.sendExtFields with
    tseq := s.tseq + 1, ds := .dExchange }

/-- The fields of a store-chunk request with `n` chunk bytes (R104). -/
def State.storeFields (s : State) (n : Nat) : List (Nat × List Byte) :=
  [fieldBytes s.cfg.schema.store.offset s.xoff.toNat, fieldBytes s.cfg.schema.store.count n,
    (s.cfg.schema.store.fixed, s.xmBytes (s.a.dptr.toNat + s.xoff.toNat) n)]

/-- The store-chunk request (R104, R193): `length = 3 + n`. -/
def State.buildStore (s : State) (len : Byte) : State :=
  ((s.putHeader len s.cfg.cid.afDataStore).putFields (s.storeFields (len.toNat - s.cfg.schema.store.fixed))).toDs
    .dExchange

/-- The fields of a retrieve request for the next chunk (R105). -/
def State.retrieveFields (s : State) : List (Nat × List Byte) :=
  [fieldBytes s.cfg.schema.retrieve.key s.a.key.toNat, fieldBytes s.cfg.schema.retrieve.offset s.xoff.toNat,
    fieldBytes s.cfg.schema.retrieve.count s.chunkLen]

/-- The retrieve request (R105, R198). -/
def State.buildRetrieve (s : State) : State :=
  ((s.putHeader (BitVec.ofNat 8 s.cfg.schema.retrieve.fixed) s.cfg.cid.afDataRetrieve).putFields s.retrieveFields).toDs
    .dExchange

/-- The step at `D_BUILD`: the header stands in `FB`; a frame of the table gets its payload by its row's layout, a
frame of `SREQ` has the Host's payload already (R162). -/
def State.buildStep (s : State) : State :=
  if s.cmd = 0x10#8 then s.toDs .dExchange
  else
    match decodeTx s.cfg (s.fbAt 0) s.frameCid with
    | .ok (.afDataRequest len) => s.buildRequest len
    | .ok .afDataRequestExt => s.buildSendExt
    | .ok (.afDataStore len) => s.buildStore len
    | .ok .afDataRetrieve => s.buildRetrieve
    | _ => s.toDs .dExchange

end Sys2Proof.Machine
end

