-- ==== Sys2Proof/Machine/Dispatcher.lean ====
section
/-! DEFINITION. The Command Dispatcher: the pseudocode of R162, R163, R166, R170, R190 to R198 cut into the block's
steps, one for each value of `DS`, and `tick`, one step of the block as a function of (`CMD`, `DS`, `PH`) and the rest
of the state (R25). -/
namespace Sys2Proof.Machine

/-- The running operation, by `CMD` (R115). -/
def State.running (s : State) : Option Instr := (decodeOp s.cmd).toOption

/-! ### Validation (R160, R161) -/

/-- The checks of `AFSEND`, in the order of R170 and R171. -/
def State.afsendCheck (s : State) : Option ResultKind :=
  if s.dval = false then some .nullParameter
  else if s.a.clus = 0#16 then some .invalidCluster
  else if s.cfg.afMaxData < s.a.dlen.toNat then some .invalidLength
  else if s.cfg.xcap < s.a.dptr.toNat + s.a.dlen.toNat then some .invalidParameter
  else none

/-- The checks of `AFSENDX`, in the order of R190. -/
def State.afsendxCheck (s : State) : Option ResultKind :=
  if s.dval = false then some .nullParameter
  else if s.a.clus = 0#16 then some .invalidCluster
  else if s.a.dlen.toNat ≤ s.cfg.afMaxData ∨ s.cfg.xlenMax < s.a.dlen.toNat then some .invalidLength
  else if s.a.amode ∉ s.cfg.amodes then some .invalidParameter
  else if s.cfg.xcap < s.a.dptr.toNat + s.a.dlen.toNat then some .invalidParameter
  else none

/-- The checks of `AFRETRX`, in the order of R196. -/
def State.afretrxCheck (s : State) : Option ResultKind :=
  if s.dval = false then some .nullParameter
  else if s.cfg.xlenMax < s.a.dlen.toNat then some .invalidLength
  else if s.cfg.xcap < s.a.dptr.toNat + s.a.dlen.toNat then some .invalidParameter
  else none

/-- Entry of `WAITN_PROC(id, tmo)` (R166): no iteration at all when the count is 0 (R167 b). -/
def State.startWait (s : State) (id : Word16) (tmo : Byte) : State :=
  if s.iterations tmo = 0 then { s with wid := id, iter := 0 }.failWith .timeout
  else { s with wid := id, iter := s.iterations tmo, ds := .dWaitSample }

/-- Write the header of the frame to build and go to `D_BUILD` (R160 step 2). -/
def State.startBuild (s : State) (len : Nat) (id : Word16) : State :=
  (s.putHeader (BitVec.ofNat 8 len) id).toDs .dBuild

/-- The step at `D_VALIDATE` (R162, R165, R170, R190, R196). Every operation but `WAITN` goes on to `D_BUILD` (R174);
`AFRETRX` passes the first `D_CHUNK` of R196's pseudocode within this step (entry 14). -/
def State.validateStep (s : State) : State :=
  match s.running with
  | some .sreq =>
    if s.cfg.nmax < s.a.len.toNat then s.failWith .invalidLength else s.startBuild s.a.len.toNat s.a.cid
  | some .waitn => s.startWait s.a.nid s.a.tmo
  | some .afsend =>
    match s.afsendCheck with
    | some k => s.failWith k
    | none => s.startBuild (requestFixed + s.a.dlen.toNat) s.cfg.cid.afDataRequest
  | some .afsendx =>
    match s.afsendxCheck with
    | some k => s.failWith k
    | none => { s with begun := false }.startBuild s.cfg.schema.sendExt.fixed s.cfg.cid.afDataRequestExt
  | some .afretrx =>
    match s.afretrxCheck with
    | some k => s.failWith k
    | none => { s with xoff := 0 }.startBuild s.cfg.schema.retrieve.fixed s.cfg.cid.afDataRetrieve
  | _ => s.failWith .invalidParameter

/-! ### Status and continuation (R163) -/

/-- The byte `STATUS(soff)` reads of a response of length `len`, if it has one at that offset (R163). -/
def State.statusByte (s : State) (len soff : Nat) : Option Byte :=
  if len ≤ soff then none else some (s.field8 soff)

/-- `STATUS(soff)` (R163) of a response of length `len` and what its value leads to: a response too short is
`INCORRECT_SRSP` with one Bus reset, a nonzero byte ends the operation with that byte, and 0 goes on with `ok`. `PH`
stays `IDLE`: the exchange is over (entry 31, DEDUCED). -/
def State.withStatus (s : State) (len soff : Nat) (ok : State) : State :=
  match s.statusByte len soff with
  | none => s.busReset.failWith .incorrectSrsp
  | some b => if b = 0#8 then ok else s.endOp b

/-- The confirmation of a send (R172, R173, R195): awaited when `CTRL.AUTOWAIT = 1`. -/
def State.confirmWait (s : State) : State :=
  if s.autowait = true then s.startWait s.cfg.cid.afDataConfirm s.a.tmo else s.endOp 0#8

/-- The optional wait of `SREQ` (R162). -/
def State.sreqWait (s : State) : State :=
  if s.waitFlag = true then s.startWait s.a.nid s.a.tmo else s.endOp 0#8

/-- `XOFF <- XOFF + n`, then the next pass of the chunk loop (R191). -/
def State.nextChunk (s : State) : State :=
  { s with xoff := BitVec.ofNat 16 (s.xoff.toNat + s.chunkLen), ds := .dChunk }

/-- The chunk loop of `AFSENDX` after a good status (R190, R194): the begin frame opens it, the zero-length chunk
closes it. -/
def State.afsendxNext (s : State) : State :=
  if s.begun = false then { s with begun := true, xoff := 0, ds := .dChunk }
  else if s.chunkLen = 0 then s.confirmWait
  else s.nextChunk

/-- The size check of a retrieve response of length `len` (R198, R247 c): its length is not exactly that of the fixed part
and the chunk asked for (D21, entry 15), or it does not echo the chunk's length. -/
def State.wrongSize (s : State) (len : Nat) : Bool :=
  decide (s.chunkLen ≠ 0) &&
    (decide (len ≠ s.cfg.schema.retrieved.fixed + s.chunkLen) ||
      decide (s.fieldNat s.cfg.schema.retrieved.count ≠ s.chunkLen))

/-- Copy the retrieved chunk from `FB` to `XM` (R196). -/
def State.storeRetrieved (s : State) : State :=
  s.xmPut (s.a.dptr.toNat + s.xoff.toNat) (s.fbBytes (hdr + s.cfg.schema.retrieved.fixed) s.chunkLen)

/-- The chunk loop of `AFRETRX` after a good status (R196, R198, R199). A response of the wrong size resets the Bus once and
leaves `PH` at `IDLE` (entry 31, DEDUCED). -/
def State.afretrxNext (s : State) (len : Nat) : State :=
  if s.wrongSize len = true then s.busReset.failWith .incorrectSrsp
  else if s.chunkLen = 0 then s.endOp 0#8
  else s.storeRetrieved.nextChunk

/-- What follows a good status byte, by operation. -/
def State.afterStatus (s : State) (len : Nat) : State :=
  match s.running with
  | some .sreq => s.sreqWait
  | some .afsend => s.confirmWait
  | some .afsendx => s.afsendxNext
  | some .afretrx => s.afretrxNext len
  | _ => s.endOp 0#8

/-- The payload offset of the status byte of the response in `FB`: `A_SOFF` for `SREQ` (R162), else by the schema of the
response the operation stands at (R105, R106, R100), which is 0 by default. -/
def State.statusOffset (s : State) : Nat :=
  match s.running with
  | some .sreq => s.a.soff.toNat
  | some .afsend => s.cfg.schema.requestSrsp.status.off
  | some .afsendx =>
    if s.begun = true then s.cfg.schema.storeSrsp.status.off else s.cfg.schema.sendExtSrsp.status.off
  | some .afretrx => s.cfg.schema.retrieved.status.off
  | _ => 0

/-- The status and what follows it, for a response of length `len` (R163). -/
def State.respond (s : State) (len : Nat) : State := s.withStatus len s.statusOffset (s.afterStatus len)

/-- The step at `D_STATUS`: the response in `FB` (R163). -/
def State.statusStep (s : State) : State := s.respond s.frameLen

/-- What follows a successful exchange (R140, R141, R160, R162, R166). -/
def State.afterExchange (s : State) : State :=
  if s.ds = .dWaitPoll then s.toDs .dWaitClassify
  else
    match s.running with
    | some .sreq => if s.sval = true then s.toDs .dStatus else s.sreqWait
    | some .afsend => s.toDs .dStatus
    | some .afsendx => s.toDs .dStatus
    | some .afretrx => s.toDs .dStatus
    | _ => s.endOp 0#8

/-- `PH = COMPLETE`: the id test of a request (R134, R140), else the exchange is over. -/
def State.completeStep (s : State) : State :=
  if s.mismatched = true then s.exchangeError .incorrectSrsp else (s.toPh .idle).afterExchange

/-! ### The notification wait (R166) -/

/-- The awaited frame, of length `len`, has come (R166, R172): a send takes the confirm's own status, the others report
the match. The status is the byte the schema calls `DataConfirm.status`, the one `K_STATUS` holds; by default that is
`STATUS(0)` of R170 (entry 21, DEDUCED for any other schema). -/
def State.matched (s : State) (len : Nat) : State :=
  match s.running with
  | some .afsend => s.withStatus len s.cfg.schema.confirm.status.off (s.endOp 0#8)
  | some .afsendx => s.withStatus len s.cfg.schema.confirm.status.off (s.endOp 0#8)
  | _ => s.endOp 0#8

/-- What follows a classification: in a wait the comparison of the id (R166), else the end of `CLSFY` (R210). -/
def State.afterClassify (s : State) (len : Byte) (id : Word16) : State :=
  if s.ds = .dWaitClassify then (if len ≠ 0#8 ∧ id = s.wid then s.matched len.toNat else s.toDs .dWaitDelay)
  else if s.busy = true then s.endOp 0#8
  else s

/-- Classify the frame with header (`len`, `id`) and go on. -/
def State.interpret (s : State) (v : Variant) (len : Byte) (id : Word16) : State :=
  (s.classifyAs v len id).afterClassify len id

/-- Classify the frame in `FB` by its own header. -/
def State.classifyStep (s : State) : State :=
  s.interpret (variantOfId s.cfg.cid s.frameCid) (s.fbAt 0) s.frameCid

/-- The step at `D_WAIT_SAMPLE`: one sample of ready (R166). -/
def State.sampleStep (s : State) : State :=
  s.sampled.toDs (if s.nextReady = true then .dWaitPoll else .dWaitDelay)

/-- The step at `D_WAIT_DELAY`: one delay, one decrement, the loop's test (R166, R167). -/
def State.delayStep (s : State) : State :=
  if s.iter - 1 = 0 then { s.emit (.delay s.cfg.pollMs) with iter := s.iter - 1 }.failWith .timeout
  else { s.emit (.delay s.cfg.pollMs) with iter := s.iter - 1, ds := .dWaitSample }

/-! ### Chunks -/

/-- The step at `D_CHUNK`: the next chunk's frame (R191, R193, R198). -/
def State.chunkStep (s : State) : State :=
  match s.running with
  | some .afsendx => s.startBuild (s.cfg.schema.store.fixed + s.chunkLen) s.cfg.cid.afDataStore
  | some .afretrx => s.startBuild s.cfg.schema.retrieve.fixed s.cfg.cid.afDataRetrieve
  | _ => s.failWith .invalidParameter

/-! ### One step of the block -/

/-- `D_IDLE` with `BUSY = 1`: the operations without a dispatcher state, and the reserved opcodes (R145, R210, R116,
R174). -/
def State.directStep (s : State) : State :=
  match s.running with
  | some .rdyq => { s.sampled with msgw := s.nextReady }.endOp 0#8
  | some .clsfy => s.classifyStep
  | _ => s.failWith .invalidParameter

/-- The start of an exchange, by its mode (R130, R134). -/
def State.exchangeStep (s : State) : State := if s.polling = true then s.pollStart else s.requestStart

/-- A step between exchanges: `PH = IDLE`. -/
def State.idlePhaseStep (s : State) : State :=
  match s.ds with
  | .dIdle => s.directStep
  | .dValidate => s.validateStep
  | .dBuild => s.buildStep
  | .dExchange => s.exchangeStep
  | .dStatus => s.statusStep
  | .dWaitSample => s.sampleStep
  | .dWaitPoll => s.exchangeStep
  | .dWaitClassify => s.classifyStep
  | .dWaitDelay => s.delayStep
  | .dChunk => s.chunkStep
  | .dDone => s.endOp s.res

/-- One step of the block, `BUSY = 1` (R25). -/
def State.tick (s : State) : State :=
  match s.ph with
  | .idle => s.idlePhaseStep
  | .selectAsserted => s.selectStep
  | .awaitingReady => s.readyStep
  | .transferring => s.sendStep
  | .awaitingReadyRelease => s.releaseStep
  | .rxHeader => s.headerStep
  | .rxPayload => s.payloadStep
  | .complete => s.completeStep
  | .error => s.leaveError

/-! ### Whole operations -/

/-- Let the block step until the operation ends, at most `n` steps. -/
def runToDone : Nat → State → State
  | 0, s => s
  | n + 1, s => if s.busy = true then runToDone n s.tick else s

/-- A number of samples that covers a wait: the bound, or for `INF` all the listed answers and one more. -/
def Bound.samples (b : Bound) (listed : Nat) : Nat :=
  match b with
  | .fin n => n
  | .inf => listed + 1

/-- How many block steps a mnemonic line waits for in one step of the machine (entry 5): enough for every operation
under finite bounds; under `INF` the Host may still be waiting afterwards, and then goes on waiting. -/
def State.allowance (s : State) : Nat :=
  (s.a.dlen.toNat + s.a.tmo.toNat * 1000 + 8) *
    (Bound.samples s.cfg.tCs s.ready.length + Bound.samples s.cfg.tSrsp s.ready.length + 16)

/-- The first dispatcher state of an operation (R174). -/
def startState (v : Byte) : DState :=
  match decodeOp v with
  | .ok .xchgRr => .dExchange
  | .ok .xchgPoll => .dExchange
  | .ok .waitn => .dValidate
  | .ok .sreq => .dValidate
  | .ok .afsend => .dValidate
  | .ok .afsendx => .dValidate
  | .ok .afretrx => .dValidate
  | _ => .dIdle

/-- The operations that run exchanges (R270 d): every one but `RDYQ`, `CLSFY` and the reserved opcodes. -/
def runsExchange (v : Byte) : Bool := startState v != .dIdle

/-- The `CMD` write (R28): atomically `CMD <- v`, `BUSY <- 1`, `DONE <- 0`, and the operation starts. -/
def State.beginOp (s : State) (v : Byte) : State :=
  { s with cmd := v, busy := true, done := false, ds := startState v }

/-- The model faults of a `CMD` write (R270 a, d, e). -/
def State.startFault (s : State) (exchanges : Bool) : Option Fault :=
  if s.busy = true then some .cmdWhileBusy
  else if s.cfg.valid = false then some .badConfig
  else if exchanges = true ∧ s.busUp = false then some .busNotInitialised
  else none

/-- A mnemonic line of R119: the `CMD` write of `v`, then the Host waits until `DONE = 1`. -/
def operate (v : Byte) (exchanges : Bool) (s : State) : Host.Outcome State Fault Refusal :=
  match s.startFault exchanges with
  | some f => .fault f
  | none => .next (runToDone s.allowance (s.beginOp v))

end Sys2Proof.Machine
end

