-- ==== Sys2Proof/Machine/Operations.lean ====
section
/-! DEFINITION. The nine host operations (R115): each is its mnemonic line (R119), the `CMD` write and the run of the
operation's pseudocode to its end. The pseudocode itself is in Exchange.lean and Dispatcher.lean. -/
namespace Sys2Proof.Machine

/-- `XCHG.RR` (R140). -/
def execXchgRr (s : State) : Host.Outcome State Fault Refusal := operate 0x01#8 true s

/-- `XCHG.POLL` (R141). -/
def execXchgPoll (s : State) : Host.Outcome State Fault Refusal := operate 0x02#8 true s

/-- `RDYQ` (R145): one sample into `STAT.MSGW`; no exchange. -/
def execRdyq (s : State) : Host.Outcome State Fault Refusal := operate 0x03#8 false s

/-- `CLSFY` (R210): no Bus primitive. -/
def execClsfy (s : State) : Host.Outcome State Fault Refusal := operate 0x04#8 false s

/-- `WAITN` (R165). -/
def execWaitn (s : State) : Host.Outcome State Fault Refusal := operate 0x05#8 true s

/-- `SREQ` (R162). -/
def execSreq (s : State) : Host.Outcome State Fault Refusal := operate 0x10#8 true s

/-- `AFSEND` (R170). -/
def execAfsend (s : State) : Host.Outcome State Fault Refusal := operate 0x11#8 true s

/-- `AFSENDX` (R190). -/
def execAfsendx (s : State) : Host.Outcome State Fault Refusal := operate 0x12#8 true s

/-- `AFRETRX` (R196). -/
def execAfretrx (s : State) : Host.Outcome State Fault Refusal := operate 0x13#8 true s

/-- A reserved opcode (R116): starts and at once ends an operation with `INVALID_PARAMETER`. -/
def execReserved (v : Byte) (s : State) : Host.Outcome State Fault Refusal := operate v false s

end Sys2Proof.Machine
end

