-- ==== Sys2Proof/Machine/ReceivedFrames.lean ====
section
/-! DEFINITION. The `FRAME_RX` rows (entry 6): the frame stands in `FB`, and the block gives it its meaning. At
`D_STATUS` it is the response of the running operation and its status byte decides (R163, R106); everywhere else it is
classified (R211), where the length 0 and the expected id are tested first (R212). -/
namespace Sys2Proof.Machine

/-- The meaning of a received frame whose id alone selects the variant `v`. -/
def State.receive (s : State) (v : Variant) (len : Byte) (id : Word16) : State :=
  if s.ds = .dStatus then s.respond len.toNat else s.interpret v len id

/-- `NO_MESSAGE` (R95, R214): length 0, whatever the id. -/
def execNoMessage (cid : Word16) (s : State) : Host.Outcome State Fault Refusal :=
  .next (s.receive .noMessage 0#8 cid)

/-- The response to `AF_DATA_REQUEST` (R106); outside its operation an unknown frame, or the expected one (R222). -/
def execAfDataRequestSrsp (len : Byte) (s : State) : Host.Outcome State Fault Refusal :=
  .next (s.receive .unknown len (resp s.cfg.cid.afDataRequest))

/-- The response to `AF_DATA_REQUEST_EXT` (R106). -/
def execAfDataRequestExtSrsp (len : Byte) (s : State) : Host.Outcome State Fault Refusal :=
  .next (s.receive .unknown len (resp s.cfg.cid.afDataRequestExt))

/-- The response to `AF_DATA_STORE` (R106). -/
def execAfDataStoreSrsp (len : Byte) (s : State) : Host.Outcome State Fault Refusal :=
  .next (s.receive .unknown len (resp s.cfg.cid.afDataStore))

/-- The response to `AF_DATA_RETRIEVE` (R105, R198). -/
def execAfDataRetrieveSrsp (len : Byte) (s : State) : Host.Outcome State Fault Refusal :=
  .next (s.receive .unknown len (resp s.cfg.cid.afDataRetrieve))

/-- `AF_DATA_CONFIRM` (R221). -/
def execAfDataConfirm (len : Byte) (s : State) : Host.Outcome State Fault Refusal :=
  .next (s.receive .dataConfirm len s.cfg.cid.afDataConfirm)

/-- `AF_INCOMING_MSG` (R219). -/
def execAfIncomingMsg (len : Byte) (s : State) : Host.Outcome State Fault Refusal :=
  .next (s.receive .incoming len s.cfg.cid.afIncomingMsg)

/-- `AF_INCOMING_MSG_EXT` (R220). -/
def execAfIncomingMsgExt (len : Byte) (s : State) : Host.Outcome State Fault Refusal :=
  .next (s.receive .incomingExt len s.cfg.cid.afIncomingMsgExt)

/-- `ZDO_STATE_CHANGE_IND` (R216). -/
def execZdoStateChangeInd (len : Byte) (s : State) : Host.Outcome State Fault Refusal :=
  .next (s.receive .stateChange len s.cfg.cid.zdoStateChangeInd)

/-- `ZDO_END_DEVICE_ANNCE_IND` (R217). -/
def execZdoEndDeviceAnnceInd (len : Byte) (s : State) : Host.Outcome State Fault Refusal :=
  .next (s.receive .announce len s.cfg.cid.zdoEndDeviceAnnceInd)

/-- `ZDO_LEAVE_IND` (R218). -/
def execZdoLeaveInd (len : Byte) (s : State) : Host.Outcome State Fault Refusal :=
  .next (s.receive .deviceLeave len s.cfg.cid.zdoLeaveInd)

end Sys2Proof.Machine
end

