-- ==== Sys2Proof/Machine/SentFrames.lean ====
section
/-! DEFINITION. The `FRAME_TX` rows (entry 6): the block builds the frame in `FB` by the row's layout and is ready to
exchange it; the all-zero frame is built by the engine at the start of a poll. -/
namespace Sys2Proof.Machine

/-- `POLL` (R94, R136): the all-zero header, `EXPV` cleared, select asserted. -/
def execPoll (s : State) : Host.Outcome State Fault Refusal := .next s.pollStart

/-- `AF_DATA_REQUEST` of this length (R102). -/
def execAfDataRequest (len : Byte) (s : State) : Host.Outcome State Fault Refusal := .next (s.buildRequest len)

/-- `AF_DATA_REQUEST_EXT` (R103). -/
def execAfDataRequestExt (s : State) : Host.Outcome State Fault Refusal := .next s.buildSendExt

/-- `AF_DATA_STORE` of this length (R104). -/
def execAfDataStore (len : Byte) (s : State) : Host.Outcome State Fault Refusal := .next (s.buildStore len)

/-- `AF_DATA_RETRIEVE` (R105). -/
def execAfDataRetrieve (s : State) : Host.Outcome State Fault Refusal := .next s.buildRetrieve

end Sys2Proof.Machine
end

