-- ==== Sys2Proof/Machine/Dispatch.lean ====
section
/-! DEFINITION. One arm per constructor of Instr, each one direct call of its meaning. -/
namespace Sys2Proof.Machine

def exec (i : Instr) (s : State) : Host.Outcome State Fault Refusal :=
  match i with
  | .xchgRr => Sys2Proof.Machine.execXchgRr s
  | .xchgPoll => Sys2Proof.Machine.execXchgPoll s
  | .rdyq => Sys2Proof.Machine.execRdyq s
  | .clsfy => Sys2Proof.Machine.execClsfy s
  | .waitn => Sys2Proof.Machine.execWaitn s
  | .sreq => Sys2Proof.Machine.execSreq s
  | .afsend => Sys2Proof.Machine.execAfsend s
  | .afsendx => Sys2Proof.Machine.execAfsendx s
  | .afretrx => Sys2Proof.Machine.execAfretrx s
  | .poll => Sys2Proof.Machine.execPoll s
  | .noMessage cid => Sys2Proof.Machine.execNoMessage cid s
  | .afDataRequest len => Sys2Proof.Machine.execAfDataRequest len s
  | .afDataRequestSrsp len => Sys2Proof.Machine.execAfDataRequestSrsp len s
  | .afDataRequestExt => Sys2Proof.Machine.execAfDataRequestExt s
  | .afDataRequestExtSrsp len => Sys2Proof.Machine.execAfDataRequestExtSrsp len s
  | .afDataStore len => Sys2Proof.Machine.execAfDataStore len s
  | .afDataStoreSrsp len => Sys2Proof.Machine.execAfDataStoreSrsp len s
  | .afDataRetrieve => Sys2Proof.Machine.execAfDataRetrieve s
  | .afDataRetrieveSrsp len => Sys2Proof.Machine.execAfDataRetrieveSrsp len s
  | .afDataConfirm len => Sys2Proof.Machine.execAfDataConfirm len s
  | .afIncomingMsg len => Sys2Proof.Machine.execAfIncomingMsg len s
  | .afIncomingMsgExt len => Sys2Proof.Machine.execAfIncomingMsgExt len s
  | .zdoStateChangeInd len => Sys2Proof.Machine.execZdoStateChangeInd len s
  | .zdoEndDeviceAnnceInd len => Sys2Proof.Machine.execZdoEndDeviceAnnceInd len s
  | .zdoLeaveInd len => Sys2Proof.Machine.execZdoLeaveInd len s

end Sys2Proof.Machine
end

