-- ==== Sys2Proof/Machine/HostPort.lean ====
section
/-! DEFINITION. The moves of the machine: the Host's interactions of R305, and one step of the running block, which
executes a frame row where the block builds or interprets a frame of the table (entries 6 and 9). -/
namespace Sys2Proof.Machine

/-- The row of the frame at `D_BUILD`, by the header in `FB`. The dispatcher builds no poll frame: the engine does
(R136). -/
def State.frameToBuild (s : State) : Option Instr :=
  match decodeTx s.cfg (s.fbAt 0) s.frameCid with
  | .ok .poll => none
  | .ok i => some i
  | .error _ => none

/-- The row of the frame in `FB` as a received one. -/
def State.frameReceived (s : State) : Option Instr := (decodeRx s.cfg (s.fbAt 0) s.frameCid).toOption

/-- The row of the frame that starts an exchange: the all-zero header of a poll (R94, R136). -/
def State.frameToPoll (s : State) : Option Instr := (decodeTx s.cfg 0#8 0#16).toOption

/-- The frame row the block is about to execute, if it is at such a point: the poll frame at the start of a poll, the
frame of a dispatcher operation at `D_BUILD`, its response at `D_STATUS`, any received frame at a classification. -/
def State.fetchFrame (s : State) : Option Instr :=
  if s.busy = true ∧ s.ph = .idle then
    match s.ds with
    | .dBuild => if s.cmd = 0x10#8 then none else s.frameToBuild
    | .dExchange => if s.polling = true then s.frameToPoll else none
    | .dWaitPoll => s.frameToPoll
    | .dStatus => if s.cmd = 0x10#8 then none else s.frameReceived
    | .dWaitClassify => s.frameReceived
    | .dIdle => if s.cmd = 0x04#8 then s.frameReceived else none
    | .dValidate => none
    | .dWaitSample => none
    | .dWaitDelay => none
    | .dChunk => none
    | .dDone => none
  else none

/-- One step of the running block. -/
def blockMove (s : State) : Host.Outcome State Fault Refusal :=
  match s.fetchFrame with
  | some i => exec i s
  | none => .next s.tick

/-- A mnemonic line (R119): the Host writes the opcode and waits. -/
def hostOp (v : Byte) (s : State) : Host.Outcome State Fault Refusal :=
  match decodeOp v with
  | .ok i => exec i { s with hostWaits := true }
  | .error _ => execReserved v { s with hostWaits := true }

/-- A write to `CMD` alone (R28). -/
def hostStart (v : Byte) (s : State) : Host.Outcome State Fault Refusal :=
  match s.startFault (runsExchange v) with
  | some f => .fault f
  | none => .next (s.beginOp v)

/-- A write of a register by number (R39, R270 c); number 0 is `CMD`. -/
def hostSet (reg : Nat) (v : Word64) (s : State) : Host.Outcome State Fault Refusal :=
  if reg = 0 then hostStart (v.setWidth 8) s
  else if s.busy = true then .fault .registerWhileBusy
  else .next (s.writeReg reg v)

/-- A read of a register by number (R39, R68, R270 c). -/
def hostGet (reg : Nat) (s : State) : Host.Outcome State Fault Refusal :=
  if s.busy = true ∧ readableBusy reg = false then .fault .registerWhileBusy
  else .next { s with hostRd := s.readReg reg }

/-- A write of consecutive bytes of `FB` (R61, R270 b, entry 11). -/
def hostFbWrite (addr : Nat) (bytes : List Byte) (s : State) : Host.Outcome State Fault Refusal :=
  if s.busy = true then .fault .memoryWhileBusy
  else if s.cfg.cap < addr + bytes.length then .fault .noSuchFbAddress
  else .next (s.fbPut addr bytes)

/-- A write of consecutive bytes of `XM` (R61, R270 b, entry 11). -/
def hostXmWrite (addr : Nat) (bytes : List Byte) (s : State) : Host.Outcome State Fault Refusal :=
  if s.busy = true then .fault .memoryWhileBusy
  else if s.cfg.xcap < addr + bytes.length then .fault .noSuchXmAddress
  else .next (s.xmPut addr bytes)

/-- A read of one byte of `FB` (R61, R68). -/
def hostFbRead (addr : Nat) (s : State) : Host.Outcome State Fault Refusal :=
  if s.busy = true then .fault .memoryWhileBusy
  else if s.cfg.cap ≤ addr then .fault .noSuchFbAddress
  else .next { s with hostRd := (s.fbAt addr).setWidth 64 }

/-- A read of one byte of `XM` (R61, R68). -/
def hostXmRead (addr : Nat) (s : State) : Host.Outcome State Fault Refusal :=
  if s.busy = true then .fault .memoryWhileBusy
  else if s.cfg.xcap ≤ addr then .fault .noSuchXmAddress
  else .next { s with hostRd := (s.xmAt addr).setWidth 64 }

/-- The reset input (R280 a, R281, R282): everything at its reset value but `FB` and `XM`; the Module, the Bus and the
Host are not the block's (entry 22). -/
def State.blockReset (s : State) : State :=
  { State.resetWith s.cfg with
    fb := s.fb, xm := s.xm, ready := s.ready, rx := s.rx, draws := s.draws, busUp := s.busUp, host := s.host,
    hostRd := s.hostRd }

/-- One Host action. -/
def hostMove (act : HostAct) (s : State) : Host.Outcome State Fault Refusal :=
  match act with
  | .op v => hostOp v s
  | .start v => hostStart v s
  | .set reg v => hostSet reg v s
  | .get reg => hostGet reg s
  | .fbw addr bytes => hostFbWrite addr bytes s
  | .xmw addr bytes => hostXmWrite addr bytes s
  | .fbr addr => hostFbRead addr s
  | .xmr addr => hostXmRead addr s
  | .letRun => if s.busy = true then blockMove s else .next s
  | .blockReset => .next s.blockReset
  | .busInit => .next { s with busUp := true }

/-- The Host waits for `DONE` and leaves the running block alone; only the reset input can cut the wait short (R296,
R305). -/
def waitingTurn (s : State) : Host.Outcome State Fault Refusal :=
  match s.host with
  | .blockReset :: rest => .next { s with host := rest }.blockReset
  | _ => blockMove s

/-- Whose turn it is (entry 9): the block's while the Host waits for it; otherwise the Host's next action, and with
none left the block's. An idle block does nothing (R283). -/
def turn (s : State) : Host.Outcome State Fault Refusal :=
  if s.busy = true ∧ s.hostWaits = true then waitingTurn s
  else
    match s.host with
    | act :: rest => hostMove act { s with host := rest, hostWaits := false }
    | [] => if s.busy = true then blockMove s else .next s

/-- A configuration that breaks its constraints is a model fault (R270 e); otherwise the next move of Host or Block. -/
def guardedTurn (s : State) : Host.Outcome State Fault Refusal :=
  match s.cfg.valid with
  | true => turn s
  | false => .fault .badConfig

/-- The `CMD` value and the dispatcher state at which a frame row is executed (entry 23). -/
def fetchPoint (i : Instr) : Byte × DState :=
  match i with
  | .poll => (0x02#8, .dExchange)
  | .afDataRequest _ => (0x11#8, .dBuild)
  | .afDataRequestExt => (0x12#8, .dBuild)
  | .afDataStore _ => (0x12#8, .dBuild)
  | .afDataRetrieve => (0x13#8, .dBuild)
  | .afDataRequestSrsp _ => (0x11#8, .dStatus)
  | .afDataRequestExtSrsp _ => (0x12#8, .dStatus)
  | .afDataStoreSrsp _ => (0x12#8, .dStatus)
  | .afDataRetrieveSrsp _ => (0x13#8, .dStatus)
  | _ => (0x04#8, .dIdle)

/-- An idle block on an initialised Bus whose Host is about to issue the mnemonic line of opcode `v`. -/
def State.placeOp (s : State) (v : Byte) : State :=
  { s with busy := false, busUp := true, host := .op v :: s.host }

/-- A running operation at the point where it executes the frame whose header these bytes are. -/
def State.placeFrame (s : State) (bytes : List Byte) : State :=
  { s.fbPut 0 bytes with
    busy := true, done := false, busUp := true, hostWaits := false, host := .letRun :: s.host, ph := .idle
    cmd := (fetchPoint ((decodeHeaderWord s.cfg bytes).getD .clsfy)).1
    ds := (fetchPoint ((decodeHeaderWord s.cfg bytes).getD .clsfy)).2 }

end Sys2Proof.Machine
end

