-- ==== Sys2Proof/Machine/Step.lean ====
section
/-! DEFINITION. One step of the machine, and where its next instruction is placed. Everything a step does is in
HostPort.lean and below. -/
namespace Sys2Proof.Machine

/-- One step: the turn of Host or Block under a valid configuration (R270 e). -/
def step : State → Host.Outcome State Fault Refusal := guardedTurn

/-- The state whose next step executes the opcode-table word `w` (entry 23): a host operation at the command port, or
a frame header in `FB` with its operation at the point that builds or interprets it. -/
def State.withFetchWord (s : State) (nbits w : Nat) : State :=
  if nbits ≤ 8 then s.placeOp (BitVec.ofNat 8 w) else s.placeFrame (tableHeader w)

end Sys2Proof.Machine
end

