-- ==== Sys2Proof/Safety.lean ====
section
/-! DEFINITION. The terms claims are stated in: the states an operation may be started in, the coherent states, the
phase and dispatcher-state diagrams, the Bus part of a trace, and the answers of a Module that responds. -/
namespace Sys2Proof.Machine

/-- The block is at rest (R262): no operation, no exchange, select released. -/
abbrev State.Quiet (s : State) : Prop := s.busy = false ∧ s.ph = .idle ∧ s.ds = .dIdle ∧ s.sel = false

/-- The registers and the trace hold the values of R281's table. -/
abbrev State.AtReset (s : State) : Prop :=
  s.sel = false ∧ s.ph = .idle ∧ s.ds = .dIdle ∧ s.exp = 0x0000#16 ∧ s.expv = false ∧ s.spin = 0 ∧
    s.cmd = 0x00#8 ∧ s.stat = 0x00#8 ∧ s.res = 0x00#8 ∧ s.ctrl = 0x01#8 ∧ s.tseq = 0x00#8 ∧ s.ackm = 0x00#8 ∧
    s.wid = 0#16 ∧ s.iter = 0 ∧ s.xoff = 0#16 ∧ s.a = Operands.zero ∧ s.k = ClassOut.zero ∧ s.tr = []

/-- An operation may be started: at rest, the configuration valid (R9), the Bus initialised (R284 a). -/
abbrev State.Startable (s : State) : Prop := s.Quiet ∧ s.cfg.valid = true ∧ s.busUp = true

/-- Both handshake waits are bounded (R296). -/
abbrev Cfg.Bounded (c : Cfg) : Prop := c.tCs ≠ .inf ∧ c.tSrsp ≠ .inf

/-- Select may be asserted in these phases only (R135, R142). -/
def Phase.selected : Phase → Bool
  | .selectAsserted | .awaitingReady | .transferring | .awaitingReadyRelease | .rxHeader | .rxPayload => true
  | .idle | .complete | .error => false

/-- The coherent states: what every step keeps, starting from reset. -/
abbrev State.Coherent (s : State) : Prop :=
  s.cfg.valid = true ∧ Memory.wf s.cfg.cap s.fb = true ∧ Memory.wf s.cfg.xcap s.xm = true ∧
    (s.busy = false → s.ph = .idle ∧ s.ds = .dIdle) ∧ (s.sel = true ↔ s.ph.selected = true) ∧
    (s.ph ≠ .idle → s.ds = .dExchange ∨ s.ds = .dWaitPoll) ∧ (s.done = true → s.busy = false) ∧ s.ds ≠ .dDone

/-- The phase diagram of R133, one block step: a wait may also sample again, and between exchanges `PH` stays
`IDLE`. -/
def Phase.follows : Phase → Phase → Bool
  | .idle, q => q == .idle || q == .selectAsserted || q == .error
  | .selectAsserted, q => q == .awaitingReady
  | .awaitingReady, q => q == .awaitingReady || q == .transferring || q == .error
  | .transferring, q => q == .awaitingReadyRelease
  | .awaitingReadyRelease, q => q == .awaitingReadyRelease || q == .rxHeader || q == .error
  | .rxHeader, q => q == .rxPayload || q == .complete || q == .error
  | .rxPayload, q => q == .complete
  | .complete, q => q == .idle || q == .error
  | .error, q => q == .idle

/-- The dispatcher diagram of R174, one block step, with the end of an operation as a move to `D_IDLE` (entry 14). -/
def DState.follows : DState → DState → Bool
  | .dIdle, q => q == .dIdle
  | .dValidate, q => q == .dBuild || q == .dWaitSample || q == .dIdle
  | .dBuild, q => q == .dExchange
  | .dExchange, q => q == .dExchange || q == .dStatus || q == .dWaitSample || q == .dIdle
  | .dStatus, q => q == .dChunk || q == .dWaitSample || q == .dIdle
  | .dWaitSample, q => q == .dWaitPoll || q == .dWaitDelay
  | .dWaitPoll, q => q == .dWaitPoll || q == .dWaitClassify || q == .dIdle
  | .dWaitClassify, q => q == .dWaitDelay || q == .dIdle
  | .dWaitDelay, q => q == .dWaitSample || q == .dIdle
  | .dChunk, q => q == .dBuild || q == .dIdle
  | .dDone, q => q == .dIdle

/-- The Bus events of R76: `SetSel`, `RdRdy`, `Xfer`, `BusReset`. -/
def Event.isBus : Event → Bool
  | .setSel _ | .rdRdy _ | .xfer _ _ | .busReset => true
  | .delay _ | .demux _ _ | .diag _ _ => false

/-- How many Bus resets a list of events holds (R142). -/
def resetCount (es : List Event) : Nat := es.count .busReset

/-- The last Bus event of a list of events (R142). -/
def lastBus (es : List Event) : Option Event := (es.filter Event.isBus).getLast?

/-- What a Module that responds sends in one exchange: `junk` while the frame is sent to it, then the header and the
payload of its response (R134, R136). -/
def replyBytes (junk : List Byte) (id : Word16) (pay : List Byte) : List Byte :=
  junk ++ [BitVec.ofNat 8 pay.length, msb id, lsb id] ++ pay

/-- `n` wrong samples are not yet a timeout under the bound (R132, R146). -/
def Bound.allows (b : Bound) (n : Nat) : Bool :=
  match b with
  | .inf => true
  | .fin t => decide (n < t)

/-- The ready levels of one answered exchange: `p` samples before the Module accepts, `q` before it responds (R146). -/
def readyLevels (p q : Nat) : List Bool := List.replicate p false ++ true :: (List.replicate q true ++ [false])

/-- The trace of a successful exchange (R146): `out` sent, `junk` received meanwhile, the response with its id and
payload, `stale` the bytes sent while the payload came in. -/
def exchangeTrace (p q : Nat) (out junk : List Byte) (id : Word16) (pay stale : List Byte) : List Event :=
  Event.setSel true :: List.replicate p (Event.rdRdy false) ++
    (Event.rdRdy true :: Event.xfer out junk :: List.replicate q (Event.rdRdy true)) ++
    [Event.rdRdy false, Event.xfer [0#8, 0#8, 0#8] [BitVec.ofNat 8 pay.length, msb id, lsb id]] ++
    (if pay.length = 0 then [] else [Event.xfer stale pay]) ++ [Event.setSel false]

/-- What the Module does in one exchange it answers: `p` samples at 0 before it accepts, `q` samples at 1 before it
responds, the bytes it sends meanwhile, the id and the payload of its response. -/
structure Reply where
  p    : Nat
  q    : Nat
  junk : List Byte
  id   : Word16
  pay  : List Byte
deriving DecidableEq, Repr

/-- The ready levels of an answered exchange (R146). -/
def Reply.levels (r : Reply) : List Bool := readyLevels r.p r.q

/-- The bytes the Module sends in an answered exchange. -/
def Reply.bytes (r : Reply) : List Byte := replyBytes r.junk r.id r.pay

/-- The response frame, as it stands in `FB` afterwards (R64, R143). -/
def Reply.frame (r : Reply) : List Byte := [BitVec.ofNat 8 r.pay.length, msb r.id, lsb r.id] ++ r.pay

/-- The events of the exchange in which `out` is sent and answered (R146). -/
def Reply.trace (r : Reply) (out stale : List Byte) : List Event := exchangeTrace r.p r.q out r.junk r.id r.pay stale

/-- The answer fits a request with `sent` payload bytes: both waits end inside their bounds (R132), one byte comes in
for each byte sent (R73), and the response fits the buffer (R139). -/
abbrev Reply.Fits (r : Reply) (c : Cfg) (sent : Nat) : Prop :=
  Bound.allows c.tCs r.p = true ∧ Bound.allows c.tSrsp r.q = true ∧ r.junk.length = hdr + sent ∧ r.pay.length ≤ c.nmax

/-- The response has a status byte 0 at payload offset `soff` (R163, R106). -/
abbrev Reply.Good (r : Reply) (soff : Nat) : Prop := r.pay[soff]? = some 0#8

/-- What `FB` holds after an answered exchange, byte by byte (R136, R143, R292): the response frame, behind it what came in
while the request went out, behind that what was there. -/
def ontoBuffer (fb : Nat → Byte) (r : Reply) : Nat → Byte := fun a => r.frame[a]?.getD (r.junk[a]?.getD (fb a))

/-- The result of a status byte at offset `soff` of a payload, and the Bus events it adds (R163). -/
def statusResult (c : Cfg) (pay : List Byte) (soff : Nat) : Byte × List Event :=
  match pay[soff]? with
  | none => (c.rc.incorrectSrsp, [.busReset])
  | some b => (b, [])

/-- The diagnostics record of an operation that ends with `v` (R266). -/
def diagTail (verbose : Bool) (op v : Byte) : List Event := if verbose = true ∧ v ≠ 0#8 then [.diag op v] else []

/-- The payload offset of the status byte of the response an operation stands at (R105, R106, R163), `SREQ` aside: by the
schema, 0 under the default layouts; an operation that reads no status has none, and the model takes 0. -/
def State.responseStatus (s : State) : Nat :=
  if s.cmd = 0x11#8 then s.cfg.schema.requestSrsp.status.off
  else if s.cmd = 0x12#8 then
    (if s.begun = true then s.cfg.schema.storeSrsp.status.off else s.cfg.schema.sendExtSrsp.status.off)
  else if s.cmd = 0x13#8 then s.cfg.schema.retrieved.status.off
  else 0

/-- The table of R112: the `KIND` of a frame with this length byte and id, the tests in the order of R212. -/
def State.kindOf (s : State) (len : Byte) (id : Word16) : Byte :=
  if len = 0x00#8 then 0#8
  else if s.expv = true ∧ id = s.exp then 1#8
  else if id = s.cfg.cid.zdoStateChangeInd then 2#8
  else if id = s.cfg.cid.zdoEndDeviceAnnceInd then 3#8
  else if id = s.cfg.cid.zdoLeaveInd then 4#8
  else if id = s.cfg.cid.afIncomingMsg then 5#8
  else if id = s.cfg.cid.afIncomingMsgExt then 6#8
  else if id = s.cfg.cid.afDataConfirm then 7#8
  else 15#8

/-- The length byte and the id of a received frame's row (R95, R101, R93). -/
def receivedHeader (c : Cfg) : Instr → Option (Byte × Word16)
  | .noMessage id => some (0x00#8, id)
  | .afDataRequestSrsp len => some (len, resp c.cid.afDataRequest)
  | .afDataRequestExtSrsp len => some (len, resp c.cid.afDataRequestExt)
  | .afDataStoreSrsp len => some (len, resp c.cid.afDataStore)
  | .afDataRetrieveSrsp len => some (len, resp c.cid.afDataRetrieve)
  | .afDataConfirm len => some (len, c.cid.afDataConfirm)
  | .afIncomingMsg len => some (len, c.cid.afIncomingMsg)
  | .afIncomingMsgExt len => some (len, c.cid.afIncomingMsgExt)
  | .zdoStateChangeInd len => some (len, c.cid.zdoStateChangeInd)
  | .zdoEndDeviceAnnceInd len => some (len, c.cid.zdoEndDeviceAnnceInd)
  | .zdoLeaveInd len => some (len, c.cid.zdoLeaveInd)
  | .xchgRr | .xchgPoll | .rdyq | .clsfy | .waitn | .sreq | .afsend | .afsendx | .afretrx
  | .poll | .afDataRequest _ | .afDataRequestExt | .afDataStore _ | .afDataRetrieve => none

/-! ### The register map (R28 to R36, R39) -/

/-- Every listed register number with the value it reads: the block's own registers, then `A_*`, then the sequencing
registers, then `KIND`, `KFLAGS`, `K_*`. -/
def State.registerMap (s : State) : List (Nat × Word64) :=
  [(0x00, s.cmd.setWidth 64), (0x01, s.stat.setWidth 64), (0x02, s.res.setWidth 64), (0x03, s.ph.code.setWidth 64),
    (0x04, s.ds.code.setWidth 64), (0x05, s.ctrl.setWidth 64), (0x06, s.tseq.setWidth 64),
    (0x07, s.ackm.setWidth 64)] ++
  [(0x08, s.a.cid.setWidth 64), (0x0A, s.a.len.setWidth 64), (0x0B, s.a.flags.setWidth 64),
    (0x0C, s.a.soff.setWidth 64), (0x0D, s.a.tmo.setWidth 64), (0x0E, s.a.nid.setWidth 64), (0x10, s.a.daddr),
    (0x18, s.a.amode.setWidth 64), (0x19, s.a.dep.setWidth 64), (0x1A, s.a.sep.setWidth 64),
    (0x1C, s.a.clus.setWidth 64), (0x1E, s.a.dptr.setWidth 64), (0x20, s.a.dlen.setWidth 64),
    (0x24, s.a.key.setWidth 64)] ++
  [(0x28, s.exp.setWidth 64), (0x2A, if s.expv = true then 1#64 else 0#64), (0x2C, BitVec.ofNat 64 (s.iter % 65536)),
    (0x2E, s.wid.setWidth 64), (0x30, s.xoff.setWidth 64)] ++
  [(0x40, s.k.kind.setWidth 64), (0x41, s.k.kflags.setWidth 64), (0x42, s.k.cid.setWidth 64),
    (0x44, s.k.len.setWidth 64), (0x45, s.k.status.setWidth 64), (0x46, s.k.ep.setWidth 64),
    (0x47, s.k.tid.setWidth 64), (0x48, s.k.addr1.setWidth 64), (0x4A, s.k.addr2.setWidth 64), (0x50, s.k.mac),
    (0x58, s.k.cap.setWidth 64), (0x59, s.k.state.setWidth 64), (0x5A, s.k.group.setWidth 64),
    (0x5C, s.k.clus.setWidth 64), (0x5E, s.k.sep.setWidth 64), (0x5F, s.k.dep.setWidth 64),
    (0x60, s.k.bcast.setWidth 64), (0x61, s.k.lqi.setWidth 64), (0x62, s.k.sec.setWidth 64),
    (0x64, s.k.ts.setWidth 64), (0x68, s.k.tseq.setWidth 64), (0x6A, s.k.dlen.setWidth 64),
    (0x6C, s.k.doff.setWidth 64), (0x6E, s.k.samode.setWidth 64), (0x70, s.k.span.setWidth 64),
    (0x72, s.k.lvreq.setWidth 64), (0x73, s.k.lvrem.setWidth 64), (0x74, s.k.lvrej.setWidth 64)]

/-- The registers a Host may write (R28, R30, R31, R32, R35). -/
def writableRegisters : List Nat :=
  [0x00, 0x05, 0x06, 0x07, 0x08, 0x0A, 0x0B, 0x0C, 0x0D, 0x0E, 0x10, 0x18, 0x19, 0x1A, 0x1C, 0x1E, 0x20, 0x24]

/-- `DS` right after the `CMD` write of `v` (R174). -/
def firstDs (v : Byte) : DState :=
  if v = 0x01#8 ∨ v = 0x02#8 then .dExchange
  else if v = 0x05#8 ∨ v = 0x10#8 ∨ v = 0x11#8 ∨ v = 0x12#8 ∨ v = 0x13#8 then .dValidate
  else .dIdle

/-! ### Frames the block sends, byte for byte -/

/-- The send-data request with `n` data bytes (R102). -/
def State.sendDataFrame (s : State) (n : Nat) : List Byte :=
  [BitVec.ofNat 8 (10 + n), msb s.cfg.cid.afDataRequest, lsb s.cfg.cid.afDataRequest,
    s.a.daddr.extractLsb' 0 8, s.a.daddr.extractLsb' 8 8, s.a.dep, s.a.sep, lsb s.a.clus, msb s.a.clus,
    s.tseq, s.ackm, s.cfg.radius, BitVec.ofNat 8 n] ++ s.xmBytes s.a.dptr.toNat n

/-- The begin-extended-send request under the default layout (R103, R192). -/
def State.beginFrame (s : State) : List Byte :=
  [20#8, msb s.cfg.cid.afDataRequestExt, lsb s.cfg.cid.afDataRequestExt, s.a.amode,
    s.a.daddr.extractLsb' 0 8, s.a.daddr.extractLsb' 8 8, s.a.daddr.extractLsb' 16 8, s.a.daddr.extractLsb' 24 8,
    s.a.daddr.extractLsb' 32 8, s.a.daddr.extractLsb' 40 8, s.a.daddr.extractLsb' 48 8, s.a.daddr.extractLsb' 56 8,
    s.a.dep, 0x00#8, 0x00#8, s.a.sep, lsb s.a.clus, msb s.a.clus, s.tseq, s.ackm, s.cfg.radius,
    lsb s.a.dlen, msb s.a.dlen]

/-- The store-chunk request for `n` bytes at offset `off` under the default layout (R104, R193). -/
def State.storeFrame (s : State) (off n : Nat) : List Byte :=
  [BitVec.ofNat 8 (3 + n), msb s.cfg.cid.afDataStore, lsb s.cfg.cid.afDataStore,
    lsb (BitVec.ofNat 16 off), msb (BitVec.ofNat 16 off), BitVec.ofNat 8 n] ++ s.xmBytes (s.a.dptr.toNat + off) n

/-- The retrieve request for `n` bytes at offset `off` under the default layout (R105, R198). -/
def State.retrieveFrame (s : State) (off n : Nat) : List Byte :=
  [7#8, msb s.cfg.cid.afDataRetrieve, lsb s.cfg.cid.afDataRetrieve,
    s.a.key.extractLsb' 0 8, s.a.key.extractLsb' 8 8, s.a.key.extractLsb' 16 8, s.a.key.extractLsb' 24 8,
    lsb (BitVec.ofNat 16 off), msb (BitVec.ofNat 16 off), BitVec.ofNat 8 n]

/-! ### The chunk law (R191) -/

/-- How many data chunks a transfer of `A_DLEN` bytes has. -/
def State.chunks (s : State) : Nat := ceilDiv s.a.dlen.toNat s.cfg.chunkMax

/-- The offset of chunk `i`; the terminating chunk is chunk `s.chunks`. -/
def State.chunkAt (s : State) (i : Nat) : Nat := min (i * s.cfg.chunkMax) s.a.dlen.toNat

/-- The length of chunk `i`; the terminating chunk has length 0. -/
def State.chunkSize (s : State) (i : Nat) : Nat := min s.cfg.chunkMax (s.a.dlen.toNat - s.chunkAt i)

/-- The events of a sequence of answered exchanges: the frames sent, the replies, the stale bytes sent back. -/
def framesTrace : List (List Byte) → List Reply → List (List Byte) → List Event
  | out :: outs, r :: rs, stale :: stales => r.trace out stale ++ framesTrace outs rs stales
  | _, _, _ => []

/-! ### The iterations of a notification wait (R166) -/

/-- One iteration: ready reads 0, or the Module has a frame that is polled. -/
abbrev Pass := Option Reply

/-- The ready levels of one iteration. -/
def passLevels : Pass → List Bool
  | none => [false]
  | some r => true :: r.levels

/-- The bytes of one iteration. -/
def passBytes : Pass → List Byte
  | none => []
  | some r => r.bytes

/-- The iteration brings no frame that matches the awaited id (R166, R168): none, an empty one, or another id. -/
def Pass.misses (c : Cfg) (id : Word16) : Pass → Bool
  | none => true
  | some r => decide (r.Fits c 0) && decide (r.pay = [] ∨ r.id ≠ id)

/-- A notification wait as the Module plays it: the iterations that miss, then, if there is one, the frame with the
awaited id that the poll of the next iteration brings. -/
structure WaitScript where
  misses : List Pass
  found  : Option Reply
deriving DecidableEq, Repr

/-- The ready levels of a wait. -/
def WaitScript.levels (w : WaitScript) : List Bool :=
  w.misses.flatMap passLevels ++ w.found.elim [] (fun c => true :: c.levels)

/-- The bytes of a wait. -/
def WaitScript.bytes (w : WaitScript) : List Byte := w.misses.flatMap passBytes ++ w.found.elim [] Reply.bytes

/-- At least one poll runs (R165). -/
def WaitScript.polls (w : WaitScript) : Bool := w.misses.any Option.isSome || w.found.isSome

/-- The script fits a wait for `id` of `n` iterations: it finds the frame in one of them, or misses in all (R166, R167). -/
abbrev WaitScript.Plays (w : WaitScript) (c : Cfg) (id : Word16) (n : Nat) : Prop :=
  (∀ x ∈ w.misses, Pass.misses c id x = true) ∧
    (w.found = none → w.misses.length = n) ∧
    (∀ r ∈ w.found, w.misses.length < n ∧ r.Fits c 0 ∧ r.id = id ∧ r.pay ≠ [])

/-- What `FB` holds after a wait. -/
def WaitScript.onto (w : WaitScript) (fb : Nat → Byte) : Nat → Byte :=
  (w.misses.filterMap id ++ w.found.toList).foldl ontoBuffer fb

/-- The result of a wait that only reports the match (R165, R162). -/
def WaitScript.result (w : WaitScript) (c : Cfg) : Byte := w.found.elim c.rc.timeout (fun _ => 0x00#8)

/-- The result of a send that waits for its confirm, and the Bus events it adds: the confirm's own status byte (R172,
R163). -/
def WaitScript.confirmed (w : WaitScript) (c : Cfg) : Byte × List Event :=
  w.found.elim (c.rc.timeout, []) (fun r => statusResult c r.pay c.schema.confirm.status.off)

/-! ### Where an exchange starts (R160, R166) -/

/-- The first exchange of an operation: the frame it sends, and the state but for `FB` when it starts, with `EXP` and
`EXPV` as the exchange sets them. `none`: validation refuses, or the operation begins with no exchange. The frames of
the fragmented operations are those of the default layouts. -/
def State.opening (s : State) (i : Instr) : Option (List Byte × State) :=
  match i with
  | .xchgRr =>
    if s.frameLen ≤ s.cfg.nmax then
      some (s.fbBytes 0 (3 + s.frameLen), { s with cmd := 0x01#8, exp := resp s.frameCid, expv := true })
    else none
  | .xchgPoll => some ([0x00#8, 0x00#8, 0x00#8], { s with cmd := 0x02#8, expv := false })
  | .sreq =>
    if s.a.len.toNat ≤ s.cfg.nmax then
      some ([s.a.len, msb s.a.cid, lsb s.a.cid] ++ s.fbBytes 3 s.a.len.toNat,
        { s with cmd := 0x10#8, exp := resp s.a.cid, expv := true })
    else none
  | .afsend =>
    if s.afsendCheck = none then
      some (s.sendDataFrame s.a.dlen.toNat,
        { s with cmd := 0x11#8, exp := resp s.cfg.cid.afDataRequest, expv := true, tseq := s.tseq + 1 })
    else none
  | .afsendx =>
    if s.afsendxCheck = none ∧ s.cfg.schema = Config.layouts then
      some (s.beginFrame,
        { s with
          cmd := 0x12#8, exp := resp s.cfg.cid.afDataRequestExt, expv := true, tseq := s.tseq + 1, begun := false })
    else none
  | .afretrx =>
    if s.afretrxCheck = none ∧ s.cfg.schema = Config.layouts then
      some (s.retrieveFrame 0 (s.chunkSize 0),
        { s with cmd := 0x13#8, exp := resp s.cfg.cid.afDataRetrieve, expv := true, xoff := 0x0000#16 })
    else none
  | _ => none

/-- The exchange that a running operation is about to start, whichever of its exchanges it is: at `D_EXCHANGE` that of the
frame in `FB` (of a poll for `XCHG.POLL`), at `D_WAIT_POLL` a poll. The same data as `State.opening`. -/
def State.starting (s : State) : Option (List Byte × State) :=
  if s.busy = true ∧ s.ph = .idle ∧ (s.ds = .dExchange ∨ s.ds = .dWaitPoll) then
    if s.ds = .dWaitPoll ∨ s.cmd = 0x02#8 then some ([0x00#8, 0x00#8, 0x00#8], { s with expv := false })
    else if s.frameLen ≤ s.cfg.nmax then
      some (s.fbBytes 0 (3 + s.frameLen), { s with exp := resp s.frameCid, expv := true })
    else none
  else none

/-- The state in which an operation ends with `v` after the Bus events `es`, `FB` aside (R262, R266). -/
def State.endedWith (s : State) (v : Byte) (es : List Event) : State :=
  { s with
    sel := false, ph := .idle, ds := .dIdle, busy := false, done := true, res := v,
    tr := s.tr ++ es ++ diagTail s.verbose s.cmd v }

/-! ### What a failing exchange leaves: `u` is the state in which it starts, `t` the one in which the operation ends -/

/-- R137, R245: `n` samples at 0 instead of ready, one Bus reset. Nothing is transferred; `frame` stays in `FB`. -/
abbrev State.SelectTimedOut (u t : State) (frame : List Byte) (n : Nat) (levels : List Bool) : Prop :=
  t = { u.endedWith u.cfg.rc.chipSelectTimeout ([.setSel true] ++ List.replicate n (.rdRdy false) ++ [.busReset]) with
    spin := 0, errk := t.errk, fb := t.fb, ready := levels } ∧
  ∀ a, t.fbAt a = frame[a]?.getD (u.fbAt a)

/-- The events of an exchange up to its second wait (R146): `p` samples at 0, then `frame` goes out while `junk` comes
in. -/
def sentTrace (frame junk : List Byte) (p : Nat) : List Event :=
  [.setSel true] ++ List.replicate p (.rdRdy false) ++ [.rdRdy true, .xfer frame junk]

/-- R138, R246: `frame` goes out, then `n` samples at 1 instead of a response, one Bus reset. The header is zero, behind it
stands what came in during the send. -/
abbrev State.ResponseTimedOut (u t : State) (frame junk : List Byte) (p n : Nat) (levels : List Bool)
    (more : List Byte) : Prop :=
  t = { u.endedWith u.cfg.rc.srspTimeout (sentTrace frame junk p ++ List.replicate n (.rdRdy true) ++ [.busReset]) with
    spin := 0, errk := t.errk, fb := t.fb, ready := levels, rx := more } ∧
  t.fbBytes 0 3 = [0x00#8, 0x00#8, 0x00#8] ∧ ∀ a, 3 ≤ a → t.fbAt a = junk[a]?.getD (u.fbAt a)

/-- R139 b, R248: the response header says a length `l` that the buffer cannot hold. It stays in `FB`, no payload byte is
transferred, one Bus reset. -/
abbrev State.ResponseOversize (u t : State) (frame junk : List Byte) (p q : Nat) (l m b : Byte) (levels : List Bool)
    (more : List Byte) : Prop :=
  t = { u.endedWith u.cfg.rc.phyOtherError (sentTrace frame junk p ++ List.replicate q (.rdRdy true) ++
      [.rdRdy false, .xfer [0x00#8, 0x00#8, 0x00#8] [l, m, b], .busReset]) with
    spin := t.spin, errk := t.errk, fb := t.fb, ready := levels, rx := more } ∧
  t.fbBytes 0 3 = [l, m, b] ∧ ∀ a, 3 ≤ a → t.fbAt a = junk[a]?.getD (u.fbAt a)

/-- R140, R247 a: the response `r` has another id than the request pairs with. It is received whole and stays in `FB`, then
the Bus is reset once. -/
abbrev State.ResponseMispaired (u t : State) (frame : List Byte) (r : Reply) (levels : List Bool) (more : List Byte) :
    Prop :=
  ∃ stale, stale.length = r.pay.length ∧
    t = { u.endedWith u.cfg.rc.incorrectSrsp (r.trace frame stale ++ [.busReset]) with
      spin := t.spin, errk := t.errk, fb := t.fb, ready := levels, rx := more } ∧
    ∀ a, t.fbAt a = ontoBuffer u.fbAt r a

/-- The state after an operation that validation refuses (R161): `CMD`, `RES`, `DONE` and the diagnostics record. -/
def State.refusedWith (s : State) (op v : Byte) : State :=
  { s with cmd := op, done := true, res := v, tr := s.tr ++ diagTail s.verbose op v }

/-- At most one Bus reset, and nothing on the Bus behind it (R142). -/
abbrev ResetsLast (es : List Event) : Prop :=
  resetCount es ≤ 1 ∧ (resetCount es = 1 → lastBus es = some .busReset)

/-- The next state of an outcome, if there is one. -/
def nextState? (o : Host.Outcome State Fault Refusal) : Option State :=
  match o with
  | .next s => some s
  | .fault _ => none
  | .refused _ => none

end Sys2Proof.Machine
end

