-- ==== Sys2Proof/Certificates/Slice0/Obligations.lean ====
section
/-! DEFINITION. The statements for the provers. Each docstring names the rules; OBLIGATIONS.json cites them. A statement
about a host operation starts from a state in which it may be started (`State.Startable`, R290, R284 a). -/
open Sys2Proof Sys2Proof.Machine

/-! ### Reset and invariants -/

/-- R281, R282: every piece of state right after reset, whatever the configuration; the bytes of `FB` and `XM` are
free values. The reset input, in any state, gives the same, but clears neither `FB` nor `XM`, asks the Module nothing,
adds no event, and abandons whatever runs. -/
def Obligations.ResetValues : Prop :=
  (∀ c : Cfg, (State.resetWith c).AtReset ∧
    ∀ a, (State.resetWith c).fbAt a = Config.fbInit a ∧ (State.resetWith c).xmAt a = Config.xmInit a) ∧
  (∀ s : State, ∃ t, hostMove .blockReset s = .next t ∧ t.AtReset ∧
    (∀ a, t.fbAt a = s.fbAt a ∧ t.xmAt a = s.xmAt a) ∧ t.ready = s.ready ∧ t.rx = s.rx)

/-- The reset state is coherent, under any valid configuration and under the model's own (entry 1). The configuration
of `State.reset` is the model's choice. -/
def Obligations.ResetIsCoherent : Prop :=
  State.reset.Coherent ∧ ∀ c : Cfg, c.valid = true → (State.resetWith c).Coherent

/-- Every step keeps the coherent states coherent: memories canonical, `IDLE` at rest, select asserted exactly in the
phases that assert it, an exchange only where the dispatcher waits for one, `BUSY` and `DONE` never both 1. `D_DONE`
is never seen: entry 14, the model's choice. -/
def Obligations.StepKeepsCoherent : Prop :=
  ∀ s t : State, s.Coherent → step s = .next t → t.Coherent

/-! ### Encoding -/

/-- Every well-formed instruction decodes back from its word, with what follows it left over. -/
def Obligations.DecodeEncode : Prop :=
  ∀ (c : Cfg) (i : Instr) (rest : List Byte), c.valid = true → WellFormed c i = true →
    decode c i.format (encode c i ++ rest) = .ok (i, rest)

/-- What decodes to an instruction is that instruction's word. -/
def Obligations.EncodeDecode : Prop :=
  ∀ (c : Cfg) (f : Format) (bytes rest : List Byte) (i : Instr), decode c f bytes = .ok (i, rest) →
    i.format = f ∧ bytes = encode c i ++ rest

/-- A few words written out from the tables of R101 and R115. -/
def Obligations.DecodeWords : Prop :=
  decode Config.vectors .hostop [0x11#8] = .ok (.afsend, []) ∧
  decode Config.vectors .hostop [0x06#8] = .error (.reservedOpcode 0x06#8) ∧
  decode Config.vectors .frameTx [0x0D#8, 0x24#8, 0x01#8] = .ok (.afDataRequest 13#8, []) ∧
  decode Config.vectors .frameTx [0x00#8, 0x00#8, 0x00#8] = .ok (.poll, []) ∧
  decode Config.vectors .frameRx [0x01#8, 0x64#8, 0x01#8] = .ok (.afDataRequestSrsp 1#8, []) ∧
  decode Config.vectors .frameRx [0x0D#8, 0x45#8, 0xC1#8] = .ok (.zdoEndDeviceAnnceInd 13#8, []) ∧
  decode Config.vectors .frameRx [0x00#8, 0x44#8, 0x80#8] = .ok (.noMessage 0x4480#16, [])

/-! ### A step -/

/-- R28, R119: when the Host's next action is a mnemonic line whose byte decodes to `i`, the step is `exec i`, with
the action taken off the queue and the Host waiting. The Host's queue: entry 9; the whole run as one step: entry 5,
the model's choices. -/
def Obligations.StepRunsOperation : Prop :=
  ∀ (s : State) (v : Byte) (rest : List HostAct) (i : Instr),
    s.cfg.valid = true → s.busy = false → s.host = .op v :: rest → decode s.cfg .hostop [v] = .ok (i, []) →
    step s = exec i { s with host := rest, hostWaits := true }

/-- Entry 6 (DESIGN CHOICE): when the running block stands where it builds, polls or interprets a frame of the table,
the step is `exec` of that frame's row. -/
def Obligations.StepRunsFrame : Prop :=
  ∀ (s : State) (i : Instr),
    s.cfg.valid = true → s.busy = true → s.ph = .idle → s.hostWaits = true → s.host.head? ≠ some .blockReset →
    ((s.ds = .dBuild ∧ s.cmd ≠ 0x10#8 ∧ i ≠ .poll ∧ decode s.cfg .frameTx (s.fbBytes 0 3) = .ok (i, [])) ∨
      (((s.ds = .dStatus ∧ s.cmd ≠ 0x10#8) ∨ s.ds = .dWaitClassify ∨ (s.ds = .dIdle ∧ s.cmd = 0x04#8)) ∧
        decode s.cfg .frameRx (s.fbBytes 0 3) = .ok (i, [])) ∨
      ((s.ds = .dWaitPoll ∨ (s.ds = .dExchange ∧ s.cmd = 0x02#8)) ∧ i = .poll)) →
    step s = exec i s

/-- A frame row does what the operation's own step does there: the two descriptions of the block agree. Frame rows as
instructions: entry 6, the model's choice. -/
def Obligations.FrameMoveIsTick : Prop :=
  ∀ s : State, s.cfg.valid = true → s.busy = true → blockMove s = .next s.tick

/-- R116: a reserved opcode starts and at once ends an operation with `INVALID_PARAMETER`. -/
def Obligations.ReservedOpcode : Prop :=
  ∀ (s : State) (v : Byte), s.cfg.valid = true → s.busy = false → s.ph = .idle →
    (v.toNat = 0x00 ∨ (0x06 ≤ v.toNat ∧ v.toNat ≤ 0x0F) ∨ 0x14 ≤ v.toNat) →
    hostMove (.op v) s = .next { s with
      cmd := v, done := true, res := s.cfg.rc.invalidParameter, ds := .dIdle, hostWaits := true,
      tr := s.tr ++ diagTail s.verbose v s.cfg.rc.invalidParameter }

/-- R270: what the Host must not do while `BUSY = 1`, and the three reads it may make then (a, b, c); no exchange on an
uninitialised Bus (d); no step under a configuration that breaks its constraints (e). The flag `busUp`: entry 8; the
constraints on the schema among those of `cfg.valid`: entry 21, the model's choices. -/
def Obligations.HostFaults : Prop :=
  (∀ s : State, s.busy = true →
    (∀ v, hostMove (.op v) s = .fault .cmdWhileBusy ∧ hostMove (.start v) s = .fault .cmdWhileBusy) ∧
    (∀ v, hostMove (.set 0x00 v) s = .fault .cmdWhileBusy) ∧
    (∀ a bs, hostMove (.fbw a bs) s = .fault .memoryWhileBusy) ∧
    (∀ a bs, hostMove (.xmw a bs) s = .fault .memoryWhileBusy) ∧
    (∀ a, hostMove (.fbr a) s = .fault .memoryWhileBusy) ∧ (∀ a, hostMove (.xmr a) s = .fault .memoryWhileBusy) ∧
    (∀ reg v, reg ≠ 0 → hostMove (.set reg v) s = .fault .registerWhileBusy) ∧
    (∀ reg, reg ≠ 0x01 → reg ≠ 0x03 → reg ≠ 0x04 → hostMove (.get reg) s = .fault .registerWhileBusy) ∧
    hostMove (.get 0x01) s = .next { s with hostRd := s.stat.setWidth 64 } ∧
    hostMove (.get 0x03) s = .next { s with hostRd := s.ph.code.setWidth 64 } ∧
    hostMove (.get 0x04) s = .next { s with hostRd := s.ds.code.setWidth 64 }) ∧
  (∀ s : State, s.busy = false → s.cfg.valid = true → s.busUp = false → ∀ i, i.format = .hostop →
    (exec i s = .fault .busNotInitialised ↔ i ≠ .rdyq ∧ i ≠ .clsfy)) ∧
  (∀ s : State, s.cfg.valid = false →
    step s = .fault .badConfig ∧ (s.busy = false → ∀ i, i.format = .hostop → exec i s = .fault .badConfig))

/-- R39, R28 to R36, R61, with `BUSY = 0`: a read of every listed number gives its register, of any other 0; the bits of
`STAT` and `CTRL`; a write of each writable number sets that register and nothing else, any other write is ignored; a
`CMD` write starts an operation; `FB` and `XM` are read and written byte for byte. A read-only register, a number inside
a wider register, a value wider than its register: entry 10; the reserved bits of `A_FLAGS`, kept as written: entry 32;
`ITER` beyond 16 bits: entry 13; an address the memory does not have: entry 11, the model's choices. -/
def Obligations.RegisterPort : Prop :=
  ∀ s : State, s.busy = false →
    (∀ reg v, (reg, v) ∈ s.registerMap → hostMove (.get reg) s = .next { s with hostRd := v }) ∧
    (∀ reg, reg ∉ s.registerMap.map Prod.fst → hostMove (.get reg) s = .next { s with hostRd := 0#64 }) ∧
    (s.stat.getLsbD 0 = s.busy ∧ s.stat.getLsbD 1 = s.done ∧ s.stat.getLsbD 2 = s.msgw ∧ s.stat >>> 3 = 0#8) ∧
    (s.ctrl.getLsbD 0 = s.autowait ∧ s.ctrl.getLsbD 1 = s.verbose ∧ s.ctrl >>> 2 = 0#8) ∧
    (∀ v : Word64,
      hostMove (.set 0x05 v) s = .next { s with autowait := v.getLsbD 0, verbose := v.getLsbD 1 } ∧
      hostMove (.set 0x06 v) s = .next { s with tseq := v.setWidth 8 } ∧
      hostMove (.set 0x07 v) s = .next { s with ackm := v.setWidth 8 } ∧
      hostMove (.set 0x08 v) s = .next { s with a := { s.a with cid := v.setWidth 16 } } ∧
      hostMove (.set 0x0A v) s = .next { s with a := { s.a with len := v.setWidth 8 } } ∧
      hostMove (.set 0x0B v) s = .next { s with a := { s.a with flags := v.setWidth 8 } } ∧
      hostMove (.set 0x0C v) s = .next { s with a := { s.a with soff := v.setWidth 8 } } ∧
      hostMove (.set 0x0D v) s = .next { s with a := { s.a with tmo := v.setWidth 8 } } ∧
      hostMove (.set 0x0E v) s = .next { s with a := { s.a with nid := v.setWidth 16 } } ∧
      hostMove (.set 0x10 v) s = .next { s with a := { s.a with daddr := v } } ∧
      hostMove (.set 0x18 v) s = .next { s with a := { s.a with amode := v.setWidth 8 } } ∧
      hostMove (.set 0x19 v) s = .next { s with a := { s.a with dep := v.setWidth 8 } } ∧
      hostMove (.set 0x1A v) s = .next { s with a := { s.a with sep := v.setWidth 8 } } ∧
      hostMove (.set 0x1C v) s = .next { s with a := { s.a with clus := v.setWidth 16 } } ∧
      hostMove (.set 0x1E v) s = .next { s with a := { s.a with dptr := v.setWidth 16 } } ∧
      hostMove (.set 0x20 v) s = .next { s with a := { s.a with dlen := v.setWidth 16 } } ∧
      hostMove (.set 0x24 v) s = .next { s with a := { s.a with key := v.setWidth 32 } }) ∧
    (∀ reg v, reg ∉ writableRegisters → hostMove (.set reg v) s = .next s) ∧
    (s.cfg.valid = true → s.busUp = true → ∀ v : Word64,
      hostMove (.start (v.setWidth 8)) s = .next { s with
        cmd := v.setWidth 8, busy := true, done := false, ds := firstDs (v.setWidth 8) } ∧
      hostMove (.set 0x00 v) s = hostMove (.start (v.setWidth 8)) s) ∧
    (∀ addr bs, addr + bs.length ≤ s.cfg.cap → ∃ t, hostMove (.fbw addr bs) s = .next t ∧ t = { s with fb := t.fb } ∧
      t.fbBytes addr bs.length = bs ∧ ∀ a, a < addr ∨ addr + bs.length ≤ a → t.fbAt a = s.fbAt a) ∧
    (∀ addr bs, addr + bs.length ≤ s.cfg.xcap → ∃ t, hostMove (.xmw addr bs) s = .next t ∧ t = { s with xm := t.xm } ∧
      t.xmBytes addr bs.length = bs ∧ ∀ a, a < addr ∨ addr + bs.length ≤ a → t.xmAt a = s.xmAt a) ∧
    (∀ addr, addr < s.cfg.cap → hostMove (.fbr addr) s = .next { s with hostRd := (s.fbAt addr).setWidth 64 }) ∧
    (∀ addr, addr < s.cfg.xcap → hostMove (.xmr addr) s = .next { s with hostRd := (s.xmAt addr).setWidth 64 }) ∧
    (∀ addr bs, s.cfg.cap < addr + bs.length → hostMove (.fbw addr bs) s = .fault .noSuchFbAddress) ∧
    (∀ addr bs, s.cfg.xcap < addr + bs.length → hostMove (.xmw addr bs) s = .fault .noSuchXmAddress) ∧
    (∀ addr, s.cfg.cap ≤ addr → hostMove (.fbr addr) s = .fault .noSuchFbAddress) ∧
    (∀ addr, s.cfg.xcap ≤ addr → hostMove (.xmr addr) s = .fault .noSuchXmAddress)

/-! ### The two sequencing registers, the trace, the whole operation -/

/-- R133: one step of the block moves `PH` along the listed transitions only (between exchanges it stays `IDLE`, in a
wait it may sample again), and `RX_PAYLOAD` is entered when the received length is nonzero, and only then. -/
def Obligations.PhaseDiagram : Prop :=
  ∀ s : State, s.ph.follows s.tick.ph = true ∧
    (s.ph = .rxHeader → s.tick.ph ≠ .error → (s.tick.ph = .rxPayload ↔ s.tick.frameLen ≠ 0))

/-- R174: one step of the running block moves `DS` along the listed transitions only. `D_DONE` and the first `D_CHUNK` of
`AFRETRX` are passed within a step: entry 14, the model's choice. -/
def Obligations.DispatcherDiagram : Prop :=
  ∀ s : State, s.Coherent → s.busy = true → s.ds.follows s.tick.ds = true

/-- R37: an instruction only appends to the trace. -/
def Obligations.TraceOnlyGrows : Prop :=
  ∀ (i : Instr) (s t : State), exec i s = .next t → s.tr <+: t.tr

/-- R262: with both waits bounded, every host operation ends, whatever its operands and whatever the Module answers:
`PH = IDLE`, `DS = D_IDLE`, `SEL = 0`, `BUSY = 0`, `DONE = 1`. -/
def Obligations.OperationsComplete : Prop :=
  ∀ (i : Instr) (s : State), i.format = .hostop → s.Startable → Cfg.Bounded s.cfg →
    ∃ t, exec i s = .next t ∧ t.Quiet ∧ t.done = true

/-- R296: under `T_CS = INF`, or `T_SRSP = INF`, a wait whose level never comes samples on and on: no result, `BUSY` stays
1. -/
def Obligations.UnboundedWaitHangs : Prop :=
  ∀ (n : Nat) (s : State) (levels : List Bool), s.busy = true →
    (s.ph = .awaitingReady → s.cfg.tCs = .inf → s.ready = List.replicate n false ++ levels →
      runToDone n s = { s with ready := levels, tr := s.tr ++ List.replicate n (.rdRdy false) }) ∧
    (s.ph = .awaitingReadyRelease → s.cfg.tSrsp = .inf → s.ready = List.replicate n true ++ levels →
      runToDone n s = { s with ready := levels, tr := s.tr ++ List.replicate n (.rdRdy true) })

/-- R142: an exchange operation that ends with a nonzero result has reset the Bus exactly once, as its last Bus event;
one that succeeds never has. -/
def Obligations.ExchangeResetsOnce : Prop :=
  ∀ (i : Instr) (s t : State), (i = .xchgRr ∨ i = .xchgPoll) → s.Startable → exec i s = .next t → t.busy = false →
    ∃ es, t.tr = s.tr ++ es ∧ (t.res = 0x00#8 → resetCount es = 0) ∧
      (t.res ≠ 0x00#8 → resetCount es = 1 ∧ lastBus es = some .busReset)

/-- R142, R260: no operation resets the Bus twice, and none touches the Bus after it has reset it. -/
def Obligations.OperationResetsAtMostOnce : Prop :=
  ∀ (i : Instr) (s t : State), i.format = .hostop → s.Startable → exec i s = .next t →
    ∃ es, t.tr = s.tr ++ es ∧ ResetsLast es

/-! ### Frames: what an instruction leaves unchanged -/

/-- R35, R31, R32, R29, R145: no instruction writes an operand register, `ACKM`, `CTRL`, the configuration or the Host's
own fields, and only `RDYQ` writes `STAT.MSGW`. That `MSGW` outlives other operations: entry 26, the model's reading. The
Bus and Host fields are the model's own: entries 8 and 9. -/
def Obligations.OperandFrame : Prop :=
  ∀ (i : Instr) (s t : State), exec i s = .next t →
    t.a = s.a ∧ t.ackm = s.ackm ∧ t.autowait = s.autowait ∧ t.verbose = s.verbose ∧ t.cfg = s.cfg ∧
      t.busUp = s.busUp ∧ t.host = s.host ∧ t.hostWaits = s.hostWaits ∧ t.hostRd = s.hostRd ∧
      (i ≠ .rdyq → t.msgw = s.msgw)

/-- R30: `AFSEND` and `AFSENDX` step `TSEQ` once when validation passes and not otherwise; nothing else writes it but
the building of their frames. Frame rows as instructions: entry 6, the model's choice. -/
def Obligations.SequenceFrame : Prop :=
  ∀ (i : Instr) (s t : State), (i.format = .hostop → s.Quiet) → exec i s = .next t →
    (i = .afsend → t.tseq = if s.afsendCheck = none then s.tseq + 1 else s.tseq) ∧
    (i = .afsendx → t.tseq = if s.afsendxCheck = none then s.tseq + 1 else s.tseq) ∧
    (i ≠ .afsend → i ≠ .afsendx → (∀ len, i ≠ .afDataRequest len) → i ≠ .afDataRequestExt → t.tseq = s.tseq)

/-- R22, R69, R196: only `AFRETRX` (or the frame row of its response) writes `XM`, and only inside `XM[A_DPTR ..
A_DPTR + A_DLEN - 1]`. Frame rows as instructions: entry 6, the model's choice. -/
def Obligations.BulkMemoryFrame : Prop :=
  ∀ (i : Instr) (s t : State), (i.format = .hostop → s.Quiet) → exec i s = .next t →
    (∀ a, a < s.a.dptr.toNat ∨ s.a.dptr.toNat + s.a.dlen.toNat ≤ a → t.xmAt a = s.xmAt a) ∧
    (i ≠ .afretrx → ¬ (i.format = .frameRx ∧ s.ds = .dStatus ∧ s.cmd = 0x13#8) → t.xm = s.xm)

/-- R36, R134, R161: the classifier registers are written by a classification only. Frame rows as instructions: entry
6, the model's choice. -/
def Obligations.ClassifierFrame : Prop :=
  ∀ (i : Instr) (s t : State), (i.format = .hostop → s.Quiet) → exec i s = .next t →
    (i.format = .frameTx ∨ (i.format = .frameRx ∧ s.ds = .dStatus) ∨ i = .xchgRr ∨ i = .xchgPoll ∨ i = .rdyq ∨
      i = .afretrx ∨ (i = .sreq ∧ s.waitFlag = false) ∨ ((i = .afsend ∨ i = .afsendx) ∧ s.autowait = false)) →
    t.k = s.k

/-- R223, R145, R163: `RDYQ`, `CLSFY` and the interpretation of a received frame write no byte of `FB`; they and a
poll leave `EXP`, and a frame row never reads or writes the Bus but to assert select for a poll or to reset it. Frame
rows as instructions: entry 6, the model's choice. -/
def Obligations.FrameBufferFrame : Prop :=
  ∀ (i : Instr) (s t : State), (i.format = .hostop → s.Quiet) → exec i s = .next t →
    ((i.format = .frameRx ∨ i = .rdyq ∨ i = .clsfy) → t.fb = s.fb ∧ t.exp = s.exp ∧ t.expv = s.expv) ∧
    (i.format ≠ .hostop → t.exp = s.exp ∧ t.ready = s.ready ∧ t.rx = s.rx) ∧
    ((i = .xchgPoll ∨ i = .waitn) → t.exp = s.exp)

/-! ### Exchanges (R134 to R143) -/

/-- R140, R146: an `XCHG.RR` that the Module answers with the paired id. The request is sent byte for byte, `FB` holds
the response, behind it what came in during the send, behind that what was there; nothing else changes. -/
def Obligations.RequestResponseSucceeds : Prop :=
  ∀ (s : State) (r : Reply) (levels : List Bool) (more : List Byte),
    s.Startable → s.frameLen ≤ s.cfg.nmax → r.Fits s.cfg s.frameLen → r.id = resp s.frameCid →
    s.ready = r.levels ++ levels → s.rx = r.bytes ++ more →
    ∃ t stale, exec .xchgRr s = .next t ∧ stale.length = r.pay.length ∧
      t = { s with
        cmd := 0x01#8, done := true, res := 0x00#8, exp := resp s.frameCid, expv := true, spin := t.spin, fb := t.fb,
        ready := levels, rx := more, tr := s.tr ++ r.trace (s.fbBytes 0 (3 + s.frameLen)) stale } ∧
      t.fbBytes 0 (3 + r.pay.length) = r.frame ∧
      (∀ a, 3 + r.pay.length ≤ a → a < 3 + s.frameLen → some (t.fbAt a) = r.junk[a]?) ∧
      (∀ a, 3 + r.pay.length ≤ a → 3 + s.frameLen ≤ a → t.fbAt a = s.fbAt a)

/-- R141, R136: an `XCHG.POLL` that the Module answers. Three zero bytes are sent whatever `FB` held, any id is taken,
`EXPV` is cleared and `EXP` kept. -/
def Obligations.PollSucceeds : Prop :=
  ∀ (s : State) (r : Reply) (levels : List Bool) (more : List Byte),
    s.Startable → r.Fits s.cfg 0 → s.ready = r.levels ++ levels → s.rx = r.bytes ++ more →
    ∃ t stale, exec .xchgPoll s = .next t ∧ stale.length = r.pay.length ∧
      t = { s with
        cmd := 0x02#8, done := true, res := 0x00#8, expv := false, spin := t.spin, fb := t.fb, ready := levels,
        rx := more, tr := s.tr ++ r.trace [0x00#8, 0x00#8, 0x00#8] stale } ∧
      t.fbBytes 0 (3 + r.pay.length) = r.frame ∧
      (∀ a, 3 + r.pay.length ≤ a → t.fbAt a = s.fbAt a)

/-- R137, R245, R160: ready never rises. `T_CS` samples, one Bus reset, nothing transferred, and the operation ends with
this kind: in the first exchange of every operation that has one, in any exchange of a running operation, and in a poll
of `WAITN` after iterations that missed (R166). The request stays in `FB`, of a poll only the header is zeroed. The latch
`begun`: entry 4. -/
def Obligations.ChipSelectTimeout : Prop :=
  (∀ (s u : State) (i : Instr) (frame : List Byte) (n : Nat) (levels : List Bool),
    s.Startable → s.opening i = some (frame, u) → s.cfg.tCs = .fin n → s.ready = List.replicate n false ++ levels →
    ∃ t, exec i s = .next t ∧ u.SelectTimedOut t frame n levels ∧ (i = .xchgRr → t.fb = s.fb)) ∧
  (∀ (s u : State) (frame : List Byte) (n : Nat) (levels : List Bool),
    s.cfg.valid = true → s.starting = some (frame, u) → s.cfg.tCs = .fin n →
    s.ready = List.replicate n false ++ levels →
    ∃ m, u.SelectTimedOut (runToDone m s) frame n levels) ∧
  (∀ (s : State) (misses : List Pass) (n : Nat) (levels : List Bool) (more : List Byte),
    s.Startable → misses.length < ceilDiv (s.a.tmo.toNat * 1000) s.cfg.pollMs →
    (∀ x ∈ misses, Pass.misses s.cfg s.a.nid x = true) → s.cfg.tCs = .fin n →
    s.ready = misses.flatMap passLevels ++ (true :: List.replicate n false) ++ levels →
    s.rx = misses.flatMap passBytes ++ more →
    ∃ t, exec .waitn s = .next t ∧
      t = { s with
        cmd := 0x05#8, done := true, res := s.cfg.rc.chipSelectTimeout, expv := false, wid := s.a.nid,
        iter := ceilDiv (s.a.tmo.toNat * 1000) s.cfg.pollMs - misses.length, spin := 0, errk := t.errk, fb := t.fb,
        k := t.k, ready := levels, rx := more, tr := t.tr } ∧
      t.tr.count (.delay s.cfg.pollMs) = s.tr.count (.delay s.cfg.pollMs) + misses.length ∧
      resetCount t.tr = resetCount s.tr + 1 ∧ lastBus t.tr = some .busReset)

/-- R138, R246, R160: the request goes out and no response comes. `T_SRSP` samples at 1, one Bus reset, and the operation
ends with this kind: in the first exchange of every operation that has one, and in any exchange or poll of a running
operation (R141, R166). The header is zero and the payload area holds what came in during the send. The latch `begun`:
entry 4. -/
def Obligations.ResponseTimeout : Prop :=
  ∀ (s u : State) (frame junk more : List Byte) (p n : Nat) (levels : List Bool),
    Bound.allows s.cfg.tCs p = true → s.cfg.tSrsp = .fin n → junk.length = frame.length → s.rx = junk ++ more →
    s.ready = List.replicate p false ++ [true] ++ List.replicate n true ++ levels →
    (∀ i, s.Startable → s.opening i = some (frame, u) →
      ∃ t, exec i s = .next t ∧ u.ResponseTimedOut t frame junk p n levels more) ∧
    (s.cfg.valid = true → s.starting = some (frame, u) →
      ∃ m, u.ResponseTimedOut (runToDone m s) frame junk p n levels more)

/-- R139, R248, R160: a length byte the buffer cannot hold. (a) Of a request: select is never asserted and nothing is sent.
(b) Of a response, in the first exchange of every operation that has one, and in any exchange or poll of a running
operation (R141, R166): its header comes in and stays in `FB`, no payload byte is transferred. Either way one Bus reset.
The latch `begun`: entry 4. -/
def Obligations.OversizeFrame : Prop :=
  (∀ s : State, s.Startable → s.cfg.nmax < s.frameLen →
    ∃ t, exec .xchgRr s = .next t ∧
      t = { s with
        cmd := 0x01#8, done := true, res := s.cfg.rc.phyOtherError, errk := t.errk,
        tr := s.tr ++ [.busReset] ++ diagTail s.verbose 0x01#8 s.cfg.rc.phyOtherError }) ∧
  (∀ (s u : State) (frame junk more : List Byte) (p q : Nat) (l m b : Byte) (levels : List Bool),
    Bound.allows s.cfg.tCs p = true → Bound.allows s.cfg.tSrsp q = true → junk.length = frame.length →
    s.cfg.nmax < l.toNat → s.rx = junk ++ [l, m, b] ++ more → s.ready = readyLevels p q ++ levels →
    (∀ i, s.Startable → s.opening i = some (frame, u) →
      ∃ t, exec i s = .next t ∧ u.ResponseOversize t frame junk p q l m b levels more) ∧
    (s.cfg.valid = true → s.starting = some (frame, u) →
      ∃ n, u.ResponseOversize (runToDone n s) frame junk p q l m b levels more))

/-- R140, R247 a, R160: a response of another id. The whole frame is received and stays in `FB`, behind it what came in
during the send, behind that what was there; select is released, then the Bus is reset once, and the operation ends with
this kind: in the first exchange of every operation but `XCHG.POLL`, and in any request of a running operation. The latch
`begun`: entry 4. -/
def Obligations.WrongResponseId : Prop :=
  ∀ (s u : State) (frame : List Byte) (r : Reply) (levels : List Bool) (more : List Byte),
    r.Fits s.cfg (frame.length - 3) → r.id ≠ u.exp → s.ready = r.levels ++ levels → s.rx = r.bytes ++ more →
    (∀ i, i ≠ .xchgPoll → s.Startable → s.opening i = some (frame, u) →
      ∃ t, exec i s = .next t ∧ u.ResponseMispaired t frame r levels more) ∧
    (s.cfg.valid = true → s.starting = some (frame, u) → s.cmd ≠ 0x02#8 → s.ds = .dExchange →
      ∃ n, u.ResponseMispaired (runToDone n s) frame r levels more)

/-- R145, R72: one sample of ready into `STAT.MSGW`, one event, nothing else; when no answer of the Module is listed the
level is a free value, whatever it is. -/
def Obligations.ReadyQuery : Prop :=
  ∀ s : State, s.Quiet → s.cfg.valid = true →
    (∀ (v : Bool) (levels : List Bool), s.ready = v :: levels → exec .rdyq s = .next { s with
      cmd := 0x03#8, done := true, res := 0x00#8, msgw := v, ready := levels, tr := s.tr ++ [.rdRdy v] }) ∧
    (s.ready = [] → ∃ v : Bool, exec .rdyq s = .next { s with
      cmd := 0x03#8, done := true, res := 0x00#8, msgw := v, draws := s.draws + 1, tr := s.tr ++ [.rdRdy v] })

/-! ### The dispatcher (R160 to R174) -/

/-- R161, R171: a validation failure changes `CMD`, `RES` and `DONE` only, and the first failing check decides. -/
def Obligations.ValidationRefuses : Prop :=
  ∀ s : State, s.Startable →
    (s.cfg.nmax < s.a.len.toNat → exec .sreq s = .next (s.refusedWith 0x10#8 s.cfg.rc.invalidLength)) ∧
    (∀ i op, (i = .afsend ∧ op = 0x11#8) ∨ (i = .afsendx ∧ op = 0x12#8) →
      (s.dval = false → exec i s = .next (s.refusedWith op s.cfg.rc.nullParameter)) ∧
      (s.dval = true → s.a.clus = 0#16 → exec i s = .next (s.refusedWith op s.cfg.rc.invalidCluster))) ∧
    (s.dval = true → s.a.clus ≠ 0#16 →
      (s.cfg.afMaxData < s.a.dlen.toNat → exec .afsend s = .next (s.refusedWith 0x11#8 s.cfg.rc.invalidLength)) ∧
      (s.a.dlen.toNat ≤ s.cfg.afMaxData → s.cfg.xcap < s.a.dptr.toNat + s.a.dlen.toNat →
        exec .afsend s = .next (s.refusedWith 0x11#8 s.cfg.rc.invalidParameter)) ∧
      (s.a.dlen.toNat ≤ s.cfg.afMaxData ∨ s.cfg.xlenMax < s.a.dlen.toNat →
        exec .afsendx s = .next (s.refusedWith 0x12#8 s.cfg.rc.invalidLength)) ∧
      (s.cfg.afMaxData < s.a.dlen.toNat → s.a.dlen.toNat ≤ s.cfg.xlenMax →
        s.a.amode ∉ s.cfg.amodes ∨ s.cfg.xcap < s.a.dptr.toNat + s.a.dlen.toNat →
        exec .afsendx s = .next (s.refusedWith 0x12#8 s.cfg.rc.invalidParameter))) ∧
    (s.dval = false → exec .afretrx s = .next (s.refusedWith 0x13#8 s.cfg.rc.nullParameter)) ∧
    (s.dval = true → s.cfg.xlenMax < s.a.dlen.toNat →
      exec .afretrx s = .next (s.refusedWith 0x13#8 s.cfg.rc.invalidLength)) ∧
    (s.dval = true → s.a.dlen.toNat ≤ s.cfg.xlenMax → s.cfg.xcap < s.a.dptr.toNat + s.a.dlen.toNat →
      exec .afretrx s = .next (s.refusedWith 0x13#8 s.cfg.rc.invalidParameter))

/-- R162, R163: `SREQ`. The header is built from `A_LEN` and `A_CID` over the Host's payload. Without `SVAL` there is no
status; with it the status byte at `A_SOFF` is passed through, or is `INCORRECT_SRSP` with one Bus reset when the response
has no such byte. With `WAIT = 0`, or a status that ends it, the operation ends there; with `WAIT = 1` it goes on to the
wait for `A_NID`, which reports the match or `TIMEOUT` after its iterations (R166, R167). `FB` holds the last response,
behind it what came in before, behind that what was there. -/
def Obligations.GenericRequest : Prop :=
  ∀ (s : State) (r : Reply) (levels : List Bool) (more : List Byte),
    s.Startable → s.a.len.toNat ≤ s.cfg.nmax → r.Fits s.cfg s.a.len.toNat → r.id = resp s.a.cid →
    (∀ (v : Byte) (events : List Event), s.ready = r.levels ++ levels → s.rx = r.bytes ++ more →
      (v, events) = (if s.sval = true then statusResult s.cfg r.pay s.a.soff.toNat else (0x00#8, [])) →
      s.waitFlag = false ∨ v ≠ 0x00#8 →
      ∃ t stale, exec .sreq s = .next t ∧ stale.length = r.pay.length ∧
        t = { s with
          cmd := 0x10#8, done := true, res := v, exp := resp s.a.cid, expv := true, spin := t.spin, fb := t.fb,
          ready := levels, rx := more,
          tr := s.tr ++ r.trace ([s.a.len, msb s.a.cid, lsb s.a.cid] ++ s.fbBytes 3 s.a.len.toNat) stale ++ events ++
            diagTail s.verbose 0x10#8 v } ∧
        ∀ a, t.fbAt a = ontoBuffer s.fbAt r a) ∧
    (∀ w : WaitScript, s.waitFlag = true → (s.sval = true → r.Good s.a.soff.toNat) →
      w.Plays s.cfg s.a.nid (ceilDiv (s.a.tmo.toNat * 1000) s.cfg.pollMs) →
      s.ready = r.levels ++ w.levels ++ levels → s.rx = r.bytes ++ w.bytes ++ more →
      ∃ t, exec .sreq s = .next t ∧
        t = { s with
          cmd := 0x10#8, done := true, res := w.result s.cfg, exp := resp s.a.cid, expv := !w.polls, wid := s.a.nid,
          iter := ceilDiv (s.a.tmo.toNat * 1000) s.cfg.pollMs - w.misses.length, spin := t.spin, fb := t.fb,
          k := if w.polls = true then t.k else s.k, ready := levels, rx := more, tr := t.tr } ∧
        (∀ a, t.fbAt a = w.onto (ontoBuffer s.fbAt r) a) ∧ (w.found.isSome = true → t.k.cid = s.a.nid) ∧
        t.tr.count (.delay s.cfg.pollMs) = s.tr.count (.delay s.cfg.pollMs) + w.misses.length ∧
        resetCount t.tr = resetCount s.tr)

/-- R170, R102, R173: `AFSEND` that passes validation and does not wait (`AUTOWAIT = 0`, or a status that ends it). The
frame sent is R102's, `TSEQ` is stepped, the result is the response's status byte (R106; its offset is the schema's, 0 by
default: entry 21); `FB` holds the response, behind it what came in during the send, behind that what was there. -/
def Obligations.SendData : Prop :=
  ∀ (s : State) (r : Reply) (levels : List Bool) (more : List Byte) (v : Byte) (events : List Event),
    s.Startable → s.dval = true → s.a.clus ≠ 0#16 → s.a.dlen.toNat ≤ s.cfg.afMaxData →
    s.a.dptr.toNat + s.a.dlen.toNat ≤ s.cfg.xcap → r.Fits s.cfg (10 + s.a.dlen.toNat) →
    r.id = resp s.cfg.cid.afDataRequest → s.ready = r.levels ++ levels → s.rx = r.bytes ++ more →
    s.autowait = false ∨ ¬ r.Good s.cfg.schema.requestSrsp.status.off →
    (v, events) = statusResult s.cfg r.pay s.cfg.schema.requestSrsp.status.off →
    ∃ t stale, exec .afsend s = .next t ∧ stale.length = r.pay.length ∧
      t = { s with
        cmd := 0x11#8, done := true, res := v, tseq := s.tseq + 1, exp := resp s.cfg.cid.afDataRequest, expv := true,
        spin := t.spin, fb := t.fb, ready := levels, rx := more,
        tr := s.tr ++ r.trace (s.sendDataFrame s.a.dlen.toNat) stale ++ events ++ diagTail s.verbose 0x11#8 v } ∧
      ∀ a, t.fbAt a = ontoBuffer s.fbAt r a

/-- R170, R172, R168, R167: `AFSEND` with `AUTOWAIT = 1`. A good status opens the wait for the data-confirm; idle
iterations and frames of other ids before it only cost iterations; the result is the confirm's status byte (no such byte:
`INCORRECT_SRSP` with one Bus reset), or `TIMEOUT` when no iteration brings one. The offsets of both status bytes are the
schema's, 0 by default: entry 21. -/
def Obligations.SendDataConfirmed : Prop :=
  ∀ (s : State) (r : Reply) (w : WaitScript) (levels : List Bool) (more : List Byte) (v : Byte) (events : List Event),
    s.Startable → s.autowait = true → s.dval = true → s.a.clus ≠ 0#16 → s.a.dlen.toNat ≤ s.cfg.afMaxData →
    s.a.dptr.toNat + s.a.dlen.toNat ≤ s.cfg.xcap → r.Fits s.cfg (10 + s.a.dlen.toNat) →
    r.id = resp s.cfg.cid.afDataRequest → r.Good s.cfg.schema.requestSrsp.status.off →
    w.Plays s.cfg s.cfg.cid.afDataConfirm (ceilDiv (s.a.tmo.toNat * 1000) s.cfg.pollMs) →
    s.ready = r.levels ++ w.levels ++ levels → s.rx = r.bytes ++ w.bytes ++ more →
    (v, events) = w.confirmed s.cfg →
    ∃ t, exec .afsend s = .next t ∧
      t = { s with
        cmd := 0x11#8, done := true, res := v, tseq := s.tseq + 1, exp := resp s.cfg.cid.afDataRequest,
        expv := !w.polls, wid := s.cfg.cid.afDataConfirm,
        iter := ceilDiv (s.a.tmo.toNat * 1000) s.cfg.pollMs - w.misses.length, spin := t.spin, fb := t.fb,
        k := if w.polls = true then t.k else s.k, ready := levels, rx := more, tr := t.tr } ∧
      (∀ a, t.fbAt a = w.onto (ontoBuffer s.fbAt r) a) ∧
      (w.found.isSome = true → t.k.kind = 0x07#8 ∧ t.k.cid = s.cfg.cid.afDataConfirm) ∧
      t.tr.count (.delay s.cfg.pollMs) = s.tr.count (.delay s.cfg.pollMs) + w.misses.length ∧
      resetCount t.tr = resetCount s.tr + resetCount events

/-- R165, R166, R168: `WAITN` finds the awaited frame. It tolerates idle iterations and unrelated frames before it (E3),
each costing one iteration and one delay, and reports the match without reading a status. -/
def Obligations.WaitMatches : Prop :=
  ∀ (s : State) (c : Reply) (misses : List Pass) (levels : List Bool) (more : List Byte),
    s.Startable → misses.length < ceilDiv (s.a.tmo.toNat * 1000) s.cfg.pollMs →
    (∀ x ∈ misses, Pass.misses s.cfg s.a.nid x = true) → c.Fits s.cfg 0 → c.id = s.a.nid → c.pay ≠ [] →
    s.ready = misses.flatMap passLevels ++ (true :: c.levels) ++ levels →
    s.rx = misses.flatMap passBytes ++ c.bytes ++ more →
    ∃ t, exec .waitn s = .next t ∧
      t = { s with
        cmd := 0x05#8, done := true, res := 0x00#8, expv := false, wid := s.a.nid,
        iter := ceilDiv (s.a.tmo.toNat * 1000) s.cfg.pollMs - misses.length, spin := t.spin, fb := t.fb, k := t.k,
        ready := levels, rx := more, tr := t.tr } ∧
      t.fbBytes 0 (3 + c.pay.length) = c.frame ∧ t.k.cid = s.a.nid ∧
      t.tr.count (.delay s.cfg.pollMs) = s.tr.count (.delay s.cfg.pollMs) + misses.length ∧
      resetCount t.tr = resetCount s.tr

/-- R167 d, R169, R249: when no iteration brings the awaited frame, `TIMEOUT` comes after exactly
`ceil(A_TMO * 1000 / POLL_MS)` iterations, decoys among them or not, with as many delays and no Bus reset. -/
def Obligations.WaitTimesOut : Prop :=
  ∀ (s : State) (misses : List Pass) (levels : List Bool) (more : List Byte),
    s.Startable → misses.length = ceilDiv (s.a.tmo.toNat * 1000) s.cfg.pollMs →
    (∀ x ∈ misses, Pass.misses s.cfg s.a.nid x = true) →
    s.ready = misses.flatMap passLevels ++ levels → s.rx = misses.flatMap passBytes ++ more →
    ∃ t, exec .waitn s = .next t ∧
      t = { s with
        cmd := 0x05#8, done := true, res := s.cfg.rc.timeout, expv := t.expv, wid := s.a.nid, iter := 0,
        spin := t.spin, fb := t.fb, k := t.k, ready := levels, rx := more, tr := t.tr } ∧
      t.tr.count (.delay s.cfg.pollMs) = s.tr.count (.delay s.cfg.pollMs) + misses.length ∧
      resetCount t.tr = resetCount s.tr

/-- R167 a, b: with ready at 0 throughout, exactly `N` pairs of a sample and a delay, and `TIMEOUT`; `N = 0` at once. -/
def Obligations.IdleWait : Prop :=
  ∀ (s : State) (n : Nat) (levels : List Bool),
    s.Startable → n = ceilDiv (s.a.tmo.toNat * 1000) s.cfg.pollMs → s.ready = List.replicate n false ++ levels →
    exec .waitn s = .next { s with
      cmd := 0x05#8, done := true, res := s.cfg.rc.timeout, wid := s.a.nid, iter := 0, ready := levels,
      tr := s.tr ++ (List.replicate n [Event.rdRdy false, Event.delay s.cfg.pollMs]).flatten ++
        diagTail s.verbose 0x05#8 s.cfg.rc.timeout }

/-! ### Fragmented transfers (R190 to R201) -/

/-- R190 to R195: `AFSENDX` on a Module that accepts every frame. One begin frame, then the chunks of R191 in order, each
carrying its own bytes of `XM` at its own offset, then one zero-length chunk at offset `A_DLEN`; `TSEQ` is stepped once.
With `AUTOWAIT = 0` the operation then ends with success; with `AUTOWAIT = 1` it waits for the data-confirm as `AFSEND`
does (R195, R172), and the result is the confirm's status byte, or `TIMEOUT`. The latch `begun`: entry 4. -/
def Obligations.FragmentedSend : Prop :=
  ∀ (s : State) (r : Reply) (rs : List Reply) (w : WaitScript) (levels : List Bool) (more : List Byte) (v : Byte)
    (events : List Event),
    s.Startable → s.cfg.schema = Config.layouts → s.dval = true → s.a.clus ≠ 0#16 →
    s.cfg.afMaxData < s.a.dlen.toNat → s.a.dlen.toNat ≤ s.cfg.xlenMax → s.a.amode ∈ s.cfg.amodes →
    s.a.dptr.toNat + s.a.dlen.toNat ≤ s.cfg.xcap →
    r.Fits s.cfg 20 → r.id = resp s.cfg.cid.afDataRequestExt → r.Good 0 →
    rs.length = s.chunks + 1 →
    (∀ (i : Nat) (x : Reply), rs[i]? = some x →
      x.Fits s.cfg (3 + s.chunkSize i) ∧ x.id = resp s.cfg.cid.afDataStore ∧ x.Good 0) →
    (s.autowait = true → w.Plays s.cfg s.cfg.cid.afDataConfirm (ceilDiv (s.a.tmo.toNat * 1000) s.cfg.pollMs)) →
    (s.autowait = false → w = ⟨[], none⟩) →
    s.ready = r.levels ++ rs.flatMap Reply.levels ++ w.levels ++ levels →
    s.rx = r.bytes ++ rs.flatMap Reply.bytes ++ w.bytes ++ more →
    (v, events) = (if s.autowait = true then w.confirmed s.cfg else (0x00#8, [])) →
    ∃ t stale stales tail, exec .afsendx s = .next t ∧
      stale.length = r.pay.length ∧ stales.map List.length = rs.map (·.pay.length) ∧
      t = { s with
        cmd := 0x12#8, done := true, res := v, tseq := s.tseq + 1, exp := resp s.cfg.cid.afDataStore,
        expv := !w.polls, xoff := s.a.dlen, begun := true, spin := t.spin, fb := t.fb,
        wid := if s.autowait = true then s.cfg.cid.afDataConfirm else s.wid,
        iter := if s.autowait = true then ceilDiv (s.a.tmo.toNat * 1000) s.cfg.pollMs - w.misses.length else s.iter,
        k := if w.polls = true then t.k else s.k, ready := levels, rx := more,
        tr := s.tr ++ r.trace s.beginFrame stale ++
          framesTrace ((List.range (s.chunks + 1)).map fun i => s.storeFrame (s.chunkAt i) (s.chunkSize i)) rs stales ++
          tail } ∧
      (s.autowait = false → tail = []) ∧ tail.count (.delay s.cfg.pollMs) = w.misses.length ∧
      resetCount tail = resetCount events ∧
      (w.found.isSome = true → t.k.kind = 0x07#8 ∧ t.k.cid = s.cfg.cid.afDataConfirm) ∧
      ∀ a, t.fbAt a = w.onto (rs.foldl ontoBuffer (ontoBuffer s.fbAt r)) a

/-- R196 to R200: `AFRETRX` on a Module that returns `data` chunk by chunk. The retrieve requests go out in order, the
last one of length 0; afterwards `XM[A_DPTR ..]` holds `data`, byte for byte, and no other byte of `XM` has changed. -/
def Obligations.FragmentedReceive : Prop :=
  ∀ (s : State) (rs : List Reply) (data : List Byte) (levels : List Bool) (more : List Byte),
    s.Startable → s.cfg.schema = Config.layouts → s.dval = true → s.a.dlen.toNat ≤ s.cfg.xlenMax →
    s.a.dptr.toNat + s.a.dlen.toNat ≤ s.cfg.xcap → data.length = s.a.dlen.toNat → rs.length = s.chunks + 1 →
    (∀ (i : Nat) (x : Reply), rs[i]? = some x → x.Fits s.cfg 7 ∧ x.id = resp s.cfg.cid.afDataRetrieve ∧
      if s.chunkSize i = 0 then x.Good 0
      else x.pay = [0x00#8, BitVec.ofNat 8 (s.chunkSize i)] ++ (data.drop (s.chunkAt i)).take (s.chunkSize i)) →
    s.ready = rs.flatMap Reply.levels ++ levels → s.rx = rs.flatMap Reply.bytes ++ more →
    ∃ t stales, exec .afretrx s = .next t ∧ stales.map List.length = rs.map (·.pay.length) ∧
      t = { s with
        cmd := 0x13#8, done := true, res := 0x00#8, exp := resp s.cfg.cid.afDataRetrieve, expv := true,
        xoff := s.a.dlen, spin := t.spin, fb := t.fb, xm := t.xm, ready := levels, rx := more,
        tr := s.tr ++ framesTrace
          ((List.range (s.chunks + 1)).map fun i => s.retrieveFrame (s.chunkAt i) (s.chunkSize i)) rs stales } ∧
      t.xmBytes s.a.dptr.toNat s.a.dlen.toNat = data ∧
      (∀ a, a < s.a.dptr.toNat ∨ s.a.dptr.toNat + s.a.dlen.toNat ≤ a → t.xmAt a = s.xmAt a)

/-! ### The frames the block builds (R94, R102 to R105) -/

/-- R94, R136: the poll frame. Three zero bytes at the head of `FB`, `EXPV` cleared, select asserted; nothing else.
Frame rows as instructions: entry 6, the model's choice. -/
def Obligations.PollFrame : Prop :=
  ∀ s : State, 3 ≤ s.cfg.cap →
    ∃ t, exec .poll s = .next t ∧
      t = { s with fb := t.fb, expv := false, sel := true, ph := .selectAsserted, tr := s.tr ++ [.setSel true] } ∧
      t.fbBytes 0 3 = [0x00#8, 0x00#8, 0x00#8] ∧ ∀ a, 3 ≤ a → t.fbAt a = s.fbAt a

/-- R102: the send-data request of `length = 10 + n`, byte for byte, from the operand registers and `XM`; `TSEQ` is
used and then stepped; no other register and no byte of `FB` behind the frame changes. Frame rows as instructions:
entry 6, the model's choice. -/
def Obligations.SendDataRequestFrame : Prop :=
  ∀ (s : State) (len : Byte), 10 ≤ len.toNat → 3 + len.toNat ≤ s.cfg.cap →
    ∃ t, exec (.afDataRequest len) s = .next t ∧
      t = { s with fb := t.fb, tseq := s.tseq + 1, ds := .dExchange } ∧
      t.fbBytes 0 (3 + len.toNat) = s.sendDataFrame (len.toNat - 10) ∧
      ∀ a, 3 + len.toNat ≤ a → t.fbAt a = s.fbAt a

/-- R103: the begin-extended-send request, `length = 20`, under the default layout. Frame rows as instructions: entry
6, the model's choice. -/
def Obligations.BeginExtendedFrame : Prop :=
  ∀ s : State, s.cfg.schema = Config.layouts → 23 ≤ s.cfg.cap →
    ∃ t, exec .afDataRequestExt s = .next t ∧
      t = { s with fb := t.fb, tseq := s.tseq + 1, ds := .dExchange } ∧
      t.fbBytes 0 23 = s.beginFrame ∧ ∀ a, 23 ≤ a → t.fbAt a = s.fbAt a

/-- R104, R105, R198: the store-chunk request of `length = 3 + n` and the retrieve request of `length = 7`, under the
default layout; the length a retrieve asks for is `min(CHUNK_MAX, A_DLEN - XOFF)`. Frame rows as instructions: entry
6, the model's choice. -/
def Obligations.FragmentFrames : Prop :=
  ∀ s : State, s.cfg.schema = Config.layouts →
    (∀ len : Byte, 3 ≤ len.toNat → 3 + len.toNat ≤ s.cfg.cap →
      ∃ t, exec (.afDataStore len) s = .next t ∧ t = { s with fb := t.fb, ds := .dExchange } ∧
        t.fbBytes 0 (3 + len.toNat) = s.storeFrame s.xoff.toNat (len.toNat - 3) ∧
        ∀ a, 3 + len.toNat ≤ a → t.fbAt a = s.fbAt a) ∧
    (10 ≤ s.cfg.cap →
      ∃ t, exec .afDataRetrieve s = .next t ∧ t = { s with fb := t.fb, ds := .dExchange } ∧
        t.fbBytes 0 10 = s.retrieveFrame s.xoff.toNat (min s.cfg.chunkMax (s.a.dlen.toNat - s.xoff.toNat)) ∧
        ∀ a, 10 ≤ a → t.fbAt a = s.fbAt a)

/-! ### Responses at `D_STATUS` (R106, R163, R105) -/

/-- R163, R106, R105, R258: a nonzero status byte ends the operation with that byte, whichever of the four operations'
responses it stands in: `FB`, the Bus and every other register stay as they are. Frame rows as instructions: entry 6; the
offset of the status byte is the schema's, 0 by default: entry 21, the model's choices. -/
def Obligations.FailingStatus : Prop :=
  ∀ (s : State) (len : Byte) (i : Instr) (soff : Nat), s.ds = .dStatus → s.cmd ≠ 0x10#8 →
    soff = s.responseStatus → soff < len.toNat → s.fbAt (3 + soff) ≠ 0x00#8 →
    i = .afDataRequestSrsp len ∨ i = .afDataRequestExtSrsp len ∨ i = .afDataStoreSrsp len ∨
      i = .afDataRetrieveSrsp len →
    exec i s = .next { s with
      res := s.fbAt (3 + soff), busy := false, done := true, ds := .dIdle,
      tr := s.tr ++ diagTail s.verbose s.cmd (s.fbAt (3 + soff)) }

/-- R163, R170, R173, R167: a send-data response with status 0. With `AUTOWAIT = 0` the operation ends with success;
with `AUTOWAIT = 1` the wait for the data-confirm opens, or ends at once when it has no iteration. Frame rows as
instructions: entry 6; the offset of the status byte is the schema's, 0 by default: entry 21, the model's choices. -/
def Obligations.SendDataResponse : Prop :=
  ∀ (s : State) (len : Byte) (soff : Nat), s.ds = .dStatus → s.cmd = 0x11#8 →
    soff = s.cfg.schema.requestSrsp.status.off → soff < len.toNat → s.fbAt (3 + soff) = 0x00#8 →
    (s.autowait = false → exec (.afDataRequestSrsp len) s = .next { s with
      res := 0x00#8, busy := false, done := true, ds := .dIdle }) ∧
    (s.autowait = true → ceilDiv (s.a.tmo.toNat * 1000) s.cfg.pollMs ≠ 0 →
      exec (.afDataRequestSrsp len) s = .next { s with
        wid := s.cfg.cid.afDataConfirm, iter := ceilDiv (s.a.tmo.toNat * 1000) s.cfg.pollMs, ds := .dWaitSample }) ∧
    (s.autowait = true → ceilDiv (s.a.tmo.toNat * 1000) s.cfg.pollMs = 0 →
      exec (.afDataRequestSrsp len) s = .next { s with
        wid := s.cfg.cid.afDataConfirm, iter := 0, res := s.cfg.rc.timeout, busy := false, done := true,
        ds := .dIdle, tr := s.tr ++ diagTail s.verbose 0x11#8 s.cfg.rc.timeout })

/-- R190, R191, R192, R194, R195: responses with status 0 inside `AFSENDX`. The begin frame's opens the chunk loop at offset
0; a data chunk's goes on at the next offset; the terminating chunk's (`XOFF = A_DLEN`) ends the operation when
`AUTOWAIT = 0`, and with `AUTOWAIT = 1` opens the wait for the data-confirm, or ends it at once when the wait has no
iteration. Frame rows as instructions and the latch `begun`: entries 6 and 4; the offset of the status byte is the
schema's, 0 by default: entry 21, the model's choices. -/
def Obligations.FragmentedSendResponses : Prop :=
  ∀ (s : State) (len : Byte) (soff : Nat), s.ds = .dStatus → s.cmd = 0x12#8 →
    soff < len.toNat → s.fbAt (3 + soff) = 0x00#8 → 1 ≤ s.cfg.chunkMax →
    (s.begun = false → soff = s.cfg.schema.sendExtSrsp.status.off → exec (.afDataRequestExtSrsp len) s = .next { s with
      begun := true, xoff := 0x0000#16, ds := .dChunk }) ∧
    (s.begun = true → soff = s.cfg.schema.storeSrsp.status.off →
      (s.xoff.toNat < s.a.dlen.toNat → exec (.afDataStoreSrsp len) s = .next { s with
        xoff := BitVec.ofNat 16 (s.xoff.toNat + min s.cfg.chunkMax (s.a.dlen.toNat - s.xoff.toNat)), ds := .dChunk }) ∧
      (s.xoff = s.a.dlen → s.autowait = false → exec (.afDataStoreSrsp len) s = .next { s with
        res := 0x00#8, busy := false, done := true, ds := .dIdle }) ∧
      (s.xoff = s.a.dlen → s.autowait = true → ceilDiv (s.a.tmo.toNat * 1000) s.cfg.pollMs ≠ 0 →
        exec (.afDataStoreSrsp len) s = .next { s with
          wid := s.cfg.cid.afDataConfirm, iter := ceilDiv (s.a.tmo.toNat * 1000) s.cfg.pollMs, ds := .dWaitSample }) ∧
      (s.xoff = s.a.dlen → s.autowait = true → ceilDiv (s.a.tmo.toNat * 1000) s.cfg.pollMs = 0 →
        exec (.afDataStoreSrsp len) s = .next { s with
          wid := s.cfg.cid.afDataConfirm, iter := 0, res := s.cfg.rc.timeout, busy := false, done := true,
          ds := .dIdle, tr := s.tr ++ diagTail s.verbose 0x12#8 s.cfg.rc.timeout }))

/-- R196, R198, R199, R247 c: a retrieve response with status 0, for `n` bytes asked. Of another length than `2 + n`, or
with another count, it ends the operation with `INCORRECT_SRSP` and one Bus reset, `PH` staying `IDLE` (the exact length:
entry 15; `PH`: entry 31); of the right size its bytes go to `XM` and the loop goes on, in one step (entry 14); the
terminating one ends the operation with success. Frame rows as instructions: entry 6. The entries are the model's
choices. -/
def Obligations.RetrieveResponse : Prop :=
  ∀ (s : State) (len : Byte) (n : Nat), len ≠ 0#8 → s.ds = .dStatus → s.cmd = 0x13#8 → s.fbAt 3 = 0x00#8 →
    s.cfg.schema = Config.layouts → s.a.dptr.toNat + s.a.dlen.toNat ≤ s.cfg.xcap → s.xoff.toNat ≤ s.a.dlen.toNat →
    n = min s.cfg.chunkMax (s.a.dlen.toNat - s.xoff.toNat) →
    (n = 0 → exec (.afDataRetrieveSrsp len) s = .next { s with
      res := 0x00#8, busy := false, done := true, ds := .dIdle }) ∧
    (n ≠ 0 → len.toNat ≠ 2 + n ∨ (s.fbAt 4).toNat ≠ n → exec (.afDataRetrieveSrsp len) s = .next { s with
      sel := false, res := s.cfg.rc.incorrectSrsp, busy := false, done := true, ds := .dIdle,
      tr := s.tr ++ [.busReset] ++ diagTail s.verbose 0x13#8 s.cfg.rc.incorrectSrsp }) ∧
    (n ≠ 0 → len.toNat = 2 + n → (s.fbAt 4).toNat = n → ∃ t, exec (.afDataRetrieveSrsp len) s = .next t ∧
      t = { s with xm := t.xm, xoff := BitVec.ofNat 16 (s.xoff.toNat + n), ds := .dChunk } ∧
      t.xmBytes (s.a.dptr.toNat + s.xoff.toNat) n = s.fbBytes 5 n ∧
      ∀ a, a < s.a.dptr.toNat + s.xoff.toNat ∨ s.a.dptr.toNat + s.xoff.toNat + n ≤ a → t.xmAt a = s.xmAt a)

/-! ### The classifier (R210 to R224) -/

/-- R210, R212, R112, R224: `CLSFY` succeeds on every buffer; the tests are made in R212's order; it writes classifier
registers and one `Demux` event of their `KIND` and `K_CID`, no Bus event, and nothing else. -/
def Obligations.ClassifySucceeds : Prop :=
  ∀ (s : State) (id : Word16), s.Quiet → s.cfg.valid = true → id = be16 (s.fbAt 1) (s.fbAt 2) →
    ∃ t, exec .clsfy s = .next t ∧
      t = { s with cmd := 0x04#8, done := true, res := 0x00#8, k := t.k, tr := s.tr ++ [.demux t.k.kind id] } ∧
      t.k.len = s.fbAt 0 ∧ t.k.cid = id ∧
      t.k.kind = s.kindOf (s.fbAt 0) id

/-- R223: under the default layouts the outputs depend on `FB[0 .. 29]`, `EXP`, `EXPV` and the configuration only (beside
the registers of other variants, which keep their values). -/
def Obligations.ClassifyIsPure : Prop :=
  ∀ s u t v : State, s.Quiet → u.Quiet → s.cfg.schema = Config.layouts → u.cfg = s.cfg →
    s.fbBytes 0 30 = u.fbBytes 0 30 → s.exp = u.exp → s.expv = u.expv → s.k = u.k →
    exec .clsfy s = .next t → exec .clsfy u = .next v → t.k = v.k

/-- R215: after a successful `XCHG.RR` whose response has a nonzero length, `CLSFY` yields `SyncResponse`. -/
def Obligations.PairedResponseIsSync : Prop :=
  ∀ s t : State, s.Startable → exec .xchgRr s = .next t → t.busy = false → t.res = 0x00#8 → t.fbAt 0 ≠ 0#8 →
    ∃ u, exec .clsfy t = .next u ∧ u.k.kind = 0x01#8 ∧ u.k.cid = t.exp

/-- R214, R95: a frame of length 0 is `NoMessage` whatever its id, the expected one included; no field register of any
variant is written. Frame rows as instructions: entry 6, the model's choice. -/
def Obligations.NoMessageFrame : Prop :=
  ∀ (s : State) (cid : Word16), s.busy = true → s.ds = .dIdle →
    exec (.noMessage cid) s = .next { s with
      k := { s.k with kind := 0x00#8, kflags := 0x00#8, cid := cid, len := 0x00#8 },
      tr := s.tr ++ [.demux 0x00#8 cid], res := 0x00#8, busy := false, done := true }

/-- R216: `StateChange`, under the default layout. Frame rows as instructions: entry 6, the model's choice. -/
def Obligations.StateChangeFrame : Prop :=
  ∀ (s : State) (len : Byte), s.busy = true → s.ds = .dIdle → s.cfg.schema = Config.layouts → len ≠ 0#8 →
    ¬ (s.expv = true ∧ s.exp = s.cfg.cid.zdoStateChangeInd) →
    exec (.zdoStateChangeInd len) s = .next { s with
      k := { s.k with
        kind := 0x02#8, kflags := 0x00#8, cid := s.cfg.cid.zdoStateChangeInd, len := len, state := s.fbAt 3 },
      tr := s.tr ++ [.demux 0x02#8 s.cfg.cid.zdoStateChangeInd], res := 0x00#8, busy := false, done := true }

/-- R217, R213: `Announce`, under the default layout; a field that lies inside the frame holds its bytes. Frame rows
as instructions: entry 6, the model's choice. -/
def Obligations.AnnounceFrame : Prop :=
  ∀ (s : State) (len : Byte), s.busy = true → s.ds = .dIdle → s.cfg.schema = Config.layouts → len ≠ 0#8 →
    ¬ (s.expv = true ∧ s.exp = s.cfg.cid.zdoEndDeviceAnnceInd) →
    ∃ t, exec (.zdoEndDeviceAnnceInd len) s = .next t ∧
      t = { s with
        k := { s.k with
          kind := 0x03#8, kflags := if len.toNat < 13 then 0x01#8 else 0x00#8, cid := s.cfg.cid.zdoEndDeviceAnnceInd,
          len := len, addr1 := t.k.addr1, addr2 := t.k.addr2, mac := t.k.mac, cap := t.k.cap },
        tr := s.tr ++ [.demux 0x03#8 s.cfg.cid.zdoEndDeviceAnnceInd], res := 0x00#8, busy := false, done := true } ∧
      (2 ≤ len.toNat → t.k.addr1 = le16 (s.fbAt 3) (s.fbAt 4)) ∧
      (4 ≤ len.toNat → t.k.addr2 = le16 (s.fbAt 5) (s.fbAt 6)) ∧
      (12 ≤ len.toNat → t.k.mac = le64 (s.fbAt 7) (s.fbAt 8) (s.fbAt 9) (s.fbAt 10) (s.fbAt 11) (s.fbAt 12)
        (s.fbAt 13) (s.fbAt 14)) ∧
      (13 ≤ len.toNat → t.k.cap = s.fbAt 15)

/-- R218, R213: `DeviceLeave`, under the default layout. Frame rows as instructions: entry 6, the model's choice. -/
def Obligations.DeviceLeaveFrame : Prop :=
  ∀ (s : State) (len : Byte), s.busy = true → s.ds = .dIdle → s.cfg.schema = Config.layouts → len ≠ 0#8 →
    ¬ (s.expv = true ∧ s.exp = s.cfg.cid.zdoLeaveInd) →
    ∃ t, exec (.zdoLeaveInd len) s = .next t ∧
      t = { s with
        k := { s.k with
          kind := 0x04#8, kflags := if len.toNat < 13 then 0x01#8 else 0x00#8, cid := s.cfg.cid.zdoLeaveInd,
          len := len, addr1 := t.k.addr1, mac := t.k.mac, lvreq := t.k.lvreq, lvrem := t.k.lvrem,
          lvrej := t.k.lvrej },
        tr := s.tr ++ [.demux 0x04#8 s.cfg.cid.zdoLeaveInd], res := 0x00#8, busy := false, done := true } ∧
      (2 ≤ len.toNat → t.k.addr1 = le16 (s.fbAt 3) (s.fbAt 4)) ∧
      (10 ≤ len.toNat → t.k.mac = le64 (s.fbAt 5) (s.fbAt 6) (s.fbAt 7) (s.fbAt 8) (s.fbAt 9) (s.fbAt 10)
        (s.fbAt 11) (s.fbAt 12)) ∧
      (11 ≤ len.toNat → t.k.lvreq = s.fbAt 13) ∧ (12 ≤ len.toNat → t.k.lvrem = s.fbAt 14) ∧
      (13 ≤ len.toNat → t.k.lvrej = s.fbAt 15)

/-- R219, R213: `IncomingMessage`, under the default layout; a field that lies inside the frame holds its bytes, and the
data stays in `FB` from `K_DOFF = 20` on. Frame rows as instructions: entry 6, the model's choice. -/
def Obligations.IncomingMessageFrame : Prop :=
  ∀ (s : State) (len : Byte), s.busy = true → s.ds = .dIdle → s.cfg.schema = Config.layouts → len ≠ 0#8 →
    ¬ (s.expv = true ∧ s.exp = s.cfg.cid.afIncomingMsg) →
    ∃ t, exec (.afIncomingMsg len) s = .next t ∧
      t = { s with
        k := { s.k with
          kind := 0x05#8,
          kflags := if len.toNat < 17 ∨ len.toNat < 17 + (s.fbAt 19).toNat then 0x01#8 else 0x00#8,
          cid := s.cfg.cid.afIncomingMsg, len := len, group := t.k.group, clus := t.k.clus, addr1 := t.k.addr1,
          sep := t.k.sep, dep := t.k.dep, bcast := t.k.bcast, lqi := t.k.lqi, sec := t.k.sec, ts := t.k.ts,
          tseq := t.k.tseq, dlen := t.k.dlen, doff := 20#16 },
        tr := s.tr ++ [.demux 0x05#8 s.cfg.cid.afIncomingMsg], res := 0x00#8, busy := false, done := true } ∧
      (2 ≤ len.toNat → t.k.group = le16 (s.fbAt 3) (s.fbAt 4)) ∧
      (4 ≤ len.toNat → t.k.clus = le16 (s.fbAt 5) (s.fbAt 6)) ∧
      (6 ≤ len.toNat → t.k.addr1 = le16 (s.fbAt 7) (s.fbAt 8)) ∧
      (7 ≤ len.toNat → t.k.sep = s.fbAt 9) ∧ (8 ≤ len.toNat → t.k.dep = s.fbAt 10) ∧
      (9 ≤ len.toNat → t.k.bcast = s.fbAt 11) ∧ (10 ≤ len.toNat → t.k.lqi = s.fbAt 12) ∧
      (11 ≤ len.toNat → t.k.sec = s.fbAt 13) ∧
      (15 ≤ len.toNat → t.k.ts = le32 (s.fbAt 14) (s.fbAt 15) (s.fbAt 16) (s.fbAt 17)) ∧
      (16 ≤ len.toNat → t.k.tseq = s.fbAt 18) ∧ (17 ≤ len.toNat → t.k.dlen.toNat = (s.fbAt 19).toNat)

/-- R220, R213: `IncomingMessageExtended`, under the default layout; a field that lies inside the frame holds its bytes;
`INLINE` says whether the data stands in the frame, `TRUNC` is about the fixed part only. Frame rows as instructions:
entry 6, the model's choice. -/
def Obligations.IncomingExtendedFrame : Prop :=
  ∀ (s : State) (len : Byte), s.busy = true → s.ds = .dIdle → s.cfg.schema = Config.layouts → len ≠ 0#8 →
    ¬ (s.expv = true ∧ s.exp = s.cfg.cid.afIncomingMsgExt) →
    ∃ t, exec (.afIncomingMsgExt len) s = .next t ∧
      t = { s with
        k := { s.k with
          kind := 0x06#8,
          kflags := if len.toNat < 27 then 0x01#8
            else if 27 + (le16 (s.fbAt 28) (s.fbAt 29)).toNat ≤ len.toNat then 0x02#8 else 0x00#8,
          cid := s.cfg.cid.afIncomingMsgExt, len := len, group := t.k.group, clus := t.k.clus,
          samode := t.k.samode, mac := t.k.mac, sep := t.k.sep, span := t.k.span, dep := t.k.dep, bcast := t.k.bcast,
          lqi := t.k.lqi, sec := t.k.sec, ts := t.k.ts, tseq := t.k.tseq, dlen := t.k.dlen, doff := 30#16 },
        tr := s.tr ++ [.demux 0x06#8 s.cfg.cid.afIncomingMsgExt], res := 0x00#8, busy := false, done := true } ∧
      (2 ≤ len.toNat → t.k.group = le16 (s.fbAt 3) (s.fbAt 4)) ∧
      (4 ≤ len.toNat → t.k.clus = le16 (s.fbAt 5) (s.fbAt 6)) ∧ (5 ≤ len.toNat → t.k.samode = s.fbAt 7) ∧
      (13 ≤ len.toNat → t.k.mac = le64 (s.fbAt 8) (s.fbAt 9) (s.fbAt 10) (s.fbAt 11) (s.fbAt 12) (s.fbAt 13)
        (s.fbAt 14) (s.fbAt 15)) ∧
      (14 ≤ len.toNat → t.k.sep = s.fbAt 16) ∧ (16 ≤ len.toNat → t.k.span = le16 (s.fbAt 17) (s.fbAt 18)) ∧
      (17 ≤ len.toNat → t.k.dep = s.fbAt 19) ∧ (18 ≤ len.toNat → t.k.bcast = s.fbAt 20) ∧
      (19 ≤ len.toNat → t.k.lqi = s.fbAt 21) ∧ (20 ≤ len.toNat → t.k.sec = s.fbAt 22) ∧
      (24 ≤ len.toNat → t.k.ts = le32 (s.fbAt 23) (s.fbAt 24) (s.fbAt 25) (s.fbAt 26)) ∧
      (25 ≤ len.toNat → t.k.tseq = s.fbAt 27) ∧ (27 ≤ len.toNat → t.k.dlen = le16 (s.fbAt 28) (s.fbAt 29))

/-- R221, R213: `DataConfirm`, under the default layout. Frame rows as instructions: entry 6, the model's choice. -/
def Obligations.DataConfirmFrame : Prop :=
  ∀ (s : State) (len : Byte), s.busy = true → s.ds = .dIdle → s.cfg.schema = Config.layouts → len ≠ 0#8 →
    ¬ (s.expv = true ∧ s.exp = s.cfg.cid.afDataConfirm) →
    ∃ t, exec (.afDataConfirm len) s = .next t ∧
      t = { s with
        k := { s.k with
          kind := 0x07#8, kflags := if len.toNat < 3 then 0x01#8 else 0x00#8, cid := s.cfg.cid.afDataConfirm,
          len := len, status := t.k.status, ep := t.k.ep, tid := t.k.tid },
        tr := s.tr ++ [.demux 0x07#8 s.cfg.cid.afDataConfirm], res := 0x00#8, busy := false, done := true } ∧
      t.k.status = s.fbAt 3 ∧ (2 ≤ len.toNat → t.k.ep = s.fbAt 4) ∧ (3 ≤ len.toNat → t.k.tid = s.fbAt 5)

/-- R215, R222, R117 a: any frame of the expected id is `SyncResponse`, and a response that nobody expects is
`Unknown`; either way only `KIND`, `KFLAGS`, `K_CID`, `K_LEN` are written. Frame rows as instructions: entry 6, the
model's choice. -/
def Obligations.ExpectedOrUnknownFrame : Prop :=
  ∀ (s : State) (len : Byte) (i : Instr) (id : Word16), s.busy = true → s.ds = .dIdle → len ≠ 0#8 →
    (i = .afDataRequestSrsp len ∧ id = resp s.cfg.cid.afDataRequest) ∨
      (i = .afDataRequestExtSrsp len ∧ id = resp s.cfg.cid.afDataRequestExt) ∨
      (i = .afDataStoreSrsp len ∧ id = resp s.cfg.cid.afDataStore) ∨
      (i = .afDataRetrieveSrsp len ∧ id = resp s.cfg.cid.afDataRetrieve) ∨
      (s.expv = true ∧ s.exp = id ∧
        ((i = .zdoStateChangeInd len ∧ id = s.cfg.cid.zdoStateChangeInd) ∨
          (i = .zdoEndDeviceAnnceInd len ∧ id = s.cfg.cid.zdoEndDeviceAnnceInd) ∨
          (i = .zdoLeaveInd len ∧ id = s.cfg.cid.zdoLeaveInd) ∨
          (i = .afIncomingMsg len ∧ id = s.cfg.cid.afIncomingMsg) ∨
          (i = .afIncomingMsgExt len ∧ id = s.cfg.cid.afIncomingMsgExt) ∨
          (i = .afDataConfirm len ∧ id = s.cfg.cid.afDataConfirm))) →
    exec i s = .next { s with
      k := { s.k with kind := if s.expv = true ∧ s.exp = id then 0x01#8 else 0x0F#8, kflags := 0x00#8, cid := id,
                      len := len },
      tr := s.tr ++ [.demux (if s.expv = true ∧ s.exp = id then 0x01#8 else 0x0F#8) id],
      res := 0x00#8, busy := false, done := true }

/-- R166, R168, R212, R112: inside a wait every polled frame is classified, its header and `KIND` recorded and one `Demux`
event sent, and a frame of length 0 or of another id than the awaited one is then dropped: the wait goes on to its delay,
its result unwritten and the Bus untouched. Frame rows as instructions: entry 6, the model's choice. -/
def Obligations.WaitDropsUnrelated : Prop :=
  ∀ (s : State) (i : Instr) (len : Byte) (id : Word16), receivedHeader s.cfg i = some (len, id) →
    s.ds = .dWaitClassify → len = 0x00#8 ∨ id ≠ s.wid →
    ∃ t, exec i s = .next t ∧ t = { s with k := t.k, tr := s.tr ++ [.demux t.k.kind id], ds := .dWaitDelay } ∧
      t.k.len = len ∧ t.k.cid = id ∧ (s.cfg.valid = true → t.k.kind = s.kindOf len id)
end

