-- ==== Sys2Proof/Laws/State.lean ====
section
/-! SUPPORT. What each named update of a state does to each field and to the four memory views: one lemma per field per
update, each true by unfolding, so that no proof unfolds a record update. -/
namespace Sys2Proof.Machine

/-! `fbPut` -/
@[simp] theorem fbPut_cfg (s : State) (x : Nat) (bs : List Byte) : (s.fbPut x bs).cfg = s.cfg := rfl
@[simp] theorem fbPut_fb (s : State) (x : Nat) (bs : List Byte) : (s.fbPut x bs).fb = memPut s.cfg.cap s.fb x bs := rfl
@[simp] theorem fbPut_xm (s : State) (x : Nat) (bs : List Byte) : (s.fbPut x bs).xm = s.xm := rfl
@[simp] theorem fbPut_sel (s : State) (x : Nat) (bs : List Byte) : (s.fbPut x bs).sel = s.sel := rfl
@[simp] theorem fbPut_ph (s : State) (x : Nat) (bs : List Byte) : (s.fbPut x bs).ph = s.ph := rfl
@[simp] theorem fbPut_ds (s : State) (x : Nat) (bs : List Byte) : (s.fbPut x bs).ds = s.ds := rfl
@[simp] theorem fbPut_exp (s : State) (x : Nat) (bs : List Byte) : (s.fbPut x bs).exp = s.exp := rfl
@[simp] theorem fbPut_expv (s : State) (x : Nat) (bs : List Byte) : (s.fbPut x bs).expv = s.expv := rfl
@[simp] theorem fbPut_spin (s : State) (x : Nat) (bs : List Byte) : (s.fbPut x bs).spin = s.spin := rfl
@[simp] theorem fbPut_iter (s : State) (x : Nat) (bs : List Byte) : (s.fbPut x bs).iter = s.iter := rfl
@[simp] theorem fbPut_wid (s : State) (x : Nat) (bs : List Byte) : (s.fbPut x bs).wid = s.wid := rfl
@[simp] theorem fbPut_xoff (s : State) (x : Nat) (bs : List Byte) : (s.fbPut x bs).xoff = s.xoff := rfl
@[simp] theorem fbPut_cmd (s : State) (x : Nat) (bs : List Byte) : (s.fbPut x bs).cmd = s.cmd := rfl
@[simp] theorem fbPut_busy (s : State) (x : Nat) (bs : List Byte) : (s.fbPut x bs).busy = s.busy := rfl
@[simp] theorem fbPut_done (s : State) (x : Nat) (bs : List Byte) : (s.fbPut x bs).done = s.done := rfl
@[simp] theorem fbPut_msgw (s : State) (x : Nat) (bs : List Byte) : (s.fbPut x bs).msgw = s.msgw := rfl
@[simp] theorem fbPut_res (s : State) (x : Nat) (bs : List Byte) : (s.fbPut x bs).res = s.res := rfl
@[simp] theorem fbPut_autowait (s : State) (x : Nat) (bs : List Byte) : (s.fbPut x bs).autowait = s.autowait := rfl
@[simp] theorem fbPut_verbose (s : State) (x : Nat) (bs : List Byte) : (s.fbPut x bs).verbose = s.verbose := rfl
@[simp] theorem fbPut_tseq (s : State) (x : Nat) (bs : List Byte) : (s.fbPut x bs).tseq = s.tseq := rfl
@[simp] theorem fbPut_ackm (s : State) (x : Nat) (bs : List Byte) : (s.fbPut x bs).ackm = s.ackm := rfl
@[simp] theorem fbPut_a (s : State) (x : Nat) (bs : List Byte) : (s.fbPut x bs).a = s.a := rfl
@[simp] theorem fbPut_k (s : State) (x : Nat) (bs : List Byte) : (s.fbPut x bs).k = s.k := rfl
@[simp] theorem fbPut_tr (s : State) (x : Nat) (bs : List Byte) : (s.fbPut x bs).tr = s.tr := rfl
@[simp] theorem fbPut_begun (s : State) (x : Nat) (bs : List Byte) : (s.fbPut x bs).begun = s.begun := rfl
@[simp] theorem fbPut_errk (s : State) (x : Nat) (bs : List Byte) : (s.fbPut x bs).errk = s.errk := rfl
@[simp] theorem fbPut_ready (s : State) (x : Nat) (bs : List Byte) : (s.fbPut x bs).ready = s.ready := rfl
@[simp] theorem fbPut_rx (s : State) (x : Nat) (bs : List Byte) : (s.fbPut x bs).rx = s.rx := rfl
@[simp] theorem fbPut_draws (s : State) (x : Nat) (bs : List Byte) : (s.fbPut x bs).draws = s.draws := rfl
@[simp] theorem fbPut_busUp (s : State) (x : Nat) (bs : List Byte) : (s.fbPut x bs).busUp = s.busUp := rfl
@[simp] theorem fbPut_host (s : State) (x : Nat) (bs : List Byte) : (s.fbPut x bs).host = s.host := rfl
@[simp] theorem fbPut_hostWaits (s : State) (x : Nat) (bs : List Byte) : (s.fbPut x bs).hostWaits = s.hostWaits := rfl
@[simp] theorem fbPut_hostRd (s : State) (x : Nat) (bs : List Byte) : (s.fbPut x bs).hostRd = s.hostRd := rfl
@[simp] theorem fbPut_xmAt (s : State) (x : Nat) (bs : List Byte) (y : Nat) : (s.fbPut x bs).xmAt y = s.xmAt y := rfl

/-! `xmPut` -/
@[simp] theorem xmPut_cfg (s : State) (x : Nat) (bs : List Byte) : (s.xmPut x bs).cfg = s.cfg := rfl
@[simp] theorem xmPut_fb (s : State) (x : Nat) (bs : List Byte) : (s.xmPut x bs).fb = s.fb := rfl
@[simp] theorem xmPut_xm (s : State) (x : Nat) (bs : List Byte) : (s.xmPut x bs).xm = memPut s.cfg.xcap s.xm x bs := rfl
@[simp] theorem xmPut_sel (s : State) (x : Nat) (bs : List Byte) : (s.xmPut x bs).sel = s.sel := rfl
@[simp] theorem xmPut_ph (s : State) (x : Nat) (bs : List Byte) : (s.xmPut x bs).ph = s.ph := rfl
@[simp] theorem xmPut_ds (s : State) (x : Nat) (bs : List Byte) : (s.xmPut x bs).ds = s.ds := rfl
@[simp] theorem xmPut_exp (s : State) (x : Nat) (bs : List Byte) : (s.xmPut x bs).exp = s.exp := rfl
@[simp] theorem xmPut_expv (s : State) (x : Nat) (bs : List Byte) : (s.xmPut x bs).expv = s.expv := rfl
@[simp] theorem xmPut_spin (s : State) (x : Nat) (bs : List Byte) : (s.xmPut x bs).spin = s.spin := rfl
@[simp] theorem xmPut_iter (s : State) (x : Nat) (bs : List Byte) : (s.xmPut x bs).iter = s.iter := rfl
@[simp] theorem xmPut_wid (s : State) (x : Nat) (bs : List Byte) : (s.xmPut x bs).wid = s.wid := rfl
@[simp] theorem xmPut_xoff (s : State) (x : Nat) (bs : List Byte) : (s.xmPut x bs).xoff = s.xoff := rfl
@[simp] theorem xmPut_cmd (s : State) (x : Nat) (bs : List Byte) : (s.xmPut x bs).cmd = s.cmd := rfl
@[simp] theorem xmPut_busy (s : State) (x : Nat) (bs : List Byte) : (s.xmPut x bs).busy = s.busy := rfl
@[simp] theorem xmPut_done (s : State) (x : Nat) (bs : List Byte) : (s.xmPut x bs).done = s.done := rfl
@[simp] theorem xmPut_msgw (s : State) (x : Nat) (bs : List Byte) : (s.xmPut x bs).msgw = s.msgw := rfl
@[simp] theorem xmPut_res (s : State) (x : Nat) (bs : List Byte) : (s.xmPut x bs).res = s.res := rfl
@[simp] theorem xmPut_autowait (s : State) (x : Nat) (bs : List Byte) : (s.xmPut x bs).autowait = s.autowait := rfl
@[simp] theorem xmPut_verbose (s : State) (x : Nat) (bs : List Byte) : (s.xmPut x bs).verbose = s.verbose := rfl
@[simp] theorem xmPut_tseq (s : State) (x : Nat) (bs : List Byte) : (s.xmPut x bs).tseq = s.tseq := rfl
@[simp] theorem xmPut_ackm (s : State) (x : Nat) (bs : List Byte) : (s.xmPut x bs).ackm = s.ackm := rfl
@[simp] theorem xmPut_a (s : State) (x : Nat) (bs : List Byte) : (s.xmPut x bs).a = s.a := rfl
@[simp] theorem xmPut_k (s : State) (x : Nat) (bs : List Byte) : (s.xmPut x bs).k = s.k := rfl
@[simp] theorem xmPut_tr (s : State) (x : Nat) (bs : List Byte) : (s.xmPut x bs).tr = s.tr := rfl
@[simp] theorem xmPut_begun (s : State) (x : Nat) (bs : List Byte) : (s.xmPut x bs).begun = s.begun := rfl
@[simp] theorem xmPut_errk (s : State) (x : Nat) (bs : List Byte) : (s.xmPut x bs).errk = s.errk := rfl
@[simp] theorem xmPut_ready (s : State) (x : Nat) (bs : List Byte) : (s.xmPut x bs).ready = s.ready := rfl
@[simp] theorem xmPut_rx (s : State) (x : Nat) (bs : List Byte) : (s.xmPut x bs).rx = s.rx := rfl
@[simp] theorem xmPut_draws (s : State) (x : Nat) (bs : List Byte) : (s.xmPut x bs).draws = s.draws := rfl
@[simp] theorem xmPut_busUp (s : State) (x : Nat) (bs : List Byte) : (s.xmPut x bs).busUp = s.busUp := rfl
@[simp] theorem xmPut_host (s : State) (x : Nat) (bs : List Byte) : (s.xmPut x bs).host = s.host := rfl
@[simp] theorem xmPut_hostWaits (s : State) (x : Nat) (bs : List Byte) : (s.xmPut x bs).hostWaits = s.hostWaits := rfl
@[simp] theorem xmPut_hostRd (s : State) (x : Nat) (bs : List Byte) : (s.xmPut x bs).hostRd = s.hostRd := rfl
@[simp] theorem xmPut_fbAt (s : State) (x : Nat) (bs : List Byte) (y : Nat) : (s.xmPut x bs).fbAt y = s.fbAt y := rfl
@[simp] theorem xmPut_frameLen (s : State) (x : Nat) (bs : List Byte) : (s.xmPut x bs).frameLen = s.frameLen := rfl
@[simp] theorem xmPut_frameCid (s : State) (x : Nat) (bs : List Byte) : (s.xmPut x bs).frameCid = s.frameCid := rfl

/-! `putHeader` -/
@[simp] theorem putHeader_cfg (s : State) (l : Byte) (c : Word16) : (s.putHeader l c).cfg = s.cfg := rfl
@[simp] theorem putHeader_fb (s : State) (l : Byte) (c : Word16) : (s.putHeader l c).fb = memPut s.cfg.cap s.fb 0 [l, msb c, lsb c] := rfl
@[simp] theorem putHeader_xm (s : State) (l : Byte) (c : Word16) : (s.putHeader l c).xm = s.xm := rfl
@[simp] theorem putHeader_sel (s : State) (l : Byte) (c : Word16) : (s.putHeader l c).sel = s.sel := rfl
@[simp] theorem putHeader_ph (s : State) (l : Byte) (c : Word16) : (s.putHeader l c).ph = s.ph := rfl
@[simp] theorem putHeader_ds (s : State) (l : Byte) (c : Word16) : (s.putHeader l c).ds = s.ds := rfl
@[simp] theorem putHeader_exp (s : State) (l : Byte) (c : Word16) : (s.putHeader l c).exp = s.exp := rfl
@[simp] theorem putHeader_expv (s : State) (l : Byte) (c : Word16) : (s.putHeader l c).expv = s.expv := rfl
@[simp] theorem putHeader_spin (s : State) (l : Byte) (c : Word16) : (s.putHeader l c).spin = s.spin := rfl
@[simp] theorem putHeader_iter (s : State) (l : Byte) (c : Word16) : (s.putHeader l c).iter = s.iter := rfl
@[simp] theorem putHeader_wid (s : State) (l : Byte) (c : Word16) : (s.putHeader l c).wid = s.wid := rfl
@[simp] theorem putHeader_xoff (s : State) (l : Byte) (c : Word16) : (s.putHeader l c).xoff = s.xoff := rfl
@[simp] theorem putHeader_cmd (s : State) (l : Byte) (c : Word16) : (s.putHeader l c).cmd = s.cmd := rfl
@[simp] theorem putHeader_busy (s : State) (l : Byte) (c : Word16) : (s.putHeader l c).busy = s.busy := rfl
@[simp] theorem putHeader_done (s : State) (l : Byte) (c : Word16) : (s.putHeader l c).done = s.done := rfl
@[simp] theorem putHeader_msgw (s : State) (l : Byte) (c : Word16) : (s.putHeader l c).msgw = s.msgw := rfl
@[simp] theorem putHeader_res (s : State) (l : Byte) (c : Word16) : (s.putHeader l c).res = s.res := rfl
@[simp] theorem putHeader_autowait (s : State) (l : Byte) (c : Word16) : (s.putHeader l c).autowait = s.autowait := rfl
@[simp] theorem putHeader_verbose (s : State) (l : Byte) (c : Word16) : (s.putHeader l c).verbose = s.verbose := rfl
@[simp] theorem putHeader_tseq (s : State) (l : Byte) (c : Word16) : (s.putHeader l c).tseq = s.tseq := rfl
@[simp] theorem putHeader_ackm (s : State) (l : Byte) (c : Word16) : (s.putHeader l c).ackm = s.ackm := rfl
@[simp] theorem putHeader_a (s : State) (l : Byte) (c : Word16) : (s.putHeader l c).a = s.a := rfl
@[simp] theorem putHeader_k (s : State) (l : Byte) (c : Word16) : (s.putHeader l c).k = s.k := rfl
@[simp] theorem putHeader_tr (s : State) (l : Byte) (c : Word16) : (s.putHeader l c).tr = s.tr := rfl
@[simp] theorem putHeader_begun (s : State) (l : Byte) (c : Word16) : (s.putHeader l c).begun = s.begun := rfl
@[simp] theorem putHeader_errk (s : State) (l : Byte) (c : Word16) : (s.putHeader l c).errk = s.errk := rfl
@[simp] theorem putHeader_ready (s : State) (l : Byte) (c : Word16) : (s.putHeader l c).ready = s.ready := rfl
@[simp] theorem putHeader_rx (s : State) (l : Byte) (c : Word16) : (s.putHeader l c).rx = s.rx := rfl
@[simp] theorem putHeader_draws (s : State) (l : Byte) (c : Word16) : (s.putHeader l c).draws = s.draws := rfl
@[simp] theorem putHeader_busUp (s : State) (l : Byte) (c : Word16) : (s.putHeader l c).busUp = s.busUp := rfl
@[simp] theorem putHeader_host (s : State) (l : Byte) (c : Word16) : (s.putHeader l c).host = s.host := rfl
@[simp] theorem putHeader_hostWaits (s : State) (l : Byte) (c : Word16) : (s.putHeader l c).hostWaits = s.hostWaits := rfl
@[simp] theorem putHeader_hostRd (s : State) (l : Byte) (c : Word16) : (s.putHeader l c).hostRd = s.hostRd := rfl
@[simp] theorem putHeader_xmAt (s : State) (l : Byte) (c : Word16) (y : Nat) : (s.putHeader l c).xmAt y = s.xmAt y := rfl

/-! `zeroHeader` -/
@[simp] theorem zeroHeader_cfg (s : State) : (s.zeroHeader).cfg = s.cfg := rfl
@[simp] theorem zeroHeader_fb (s : State) : (s.zeroHeader).fb = memPut s.cfg.cap s.fb 0 [0#8, 0#8, 0#8] := rfl
@[simp] theorem zeroHeader_xm (s : State) : (s.zeroHeader).xm = s.xm := rfl
@[simp] theorem zeroHeader_sel (s : State) : (s.zeroHeader).sel = s.sel := rfl
@[simp] theorem zeroHeader_ph (s : State) : (s.zeroHeader).ph = s.ph := rfl
@[simp] theorem zeroHeader_ds (s : State) : (s.zeroHeader).ds = s.ds := rfl
@[simp] theorem zeroHeader_exp (s : State) : (s.zeroHeader).exp = s.exp := rfl
@[simp] theorem zeroHeader_expv (s : State) : (s.zeroHeader).expv = s.expv := rfl
@[simp] theorem zeroHeader_spin (s : State) : (s.zeroHeader).spin = s.spin := rfl
@[simp] theorem zeroHeader_iter (s : State) : (s.zeroHeader).iter = s.iter := rfl
@[simp] theorem zeroHeader_wid (s : State) : (s.zeroHeader).wid = s.wid := rfl
@[simp] theorem zeroHeader_xoff (s : State) : (s.zeroHeader).xoff = s.xoff := rfl
@[simp] theorem zeroHeader_cmd (s : State) : (s.zeroHeader).cmd = s.cmd := rfl
@[simp] theorem zeroHeader_busy (s : State) : (s.zeroHeader).busy = s.busy := rfl
@[simp] theorem zeroHeader_done (s : State) : (s.zeroHeader).done = s.done := rfl
@[simp] theorem zeroHeader_msgw (s : State) : (s.zeroHeader).msgw = s.msgw := rfl
@[simp] theorem zeroHeader_res (s : State) : (s.zeroHeader).res = s.res := rfl
@[simp] theorem zeroHeader_autowait (s : State) : (s.zeroHeader).autowait = s.autowait := rfl
@[simp] theorem zeroHeader_verbose (s : State) : (s.zeroHeader).verbose = s.verbose := rfl
@[simp] theorem zeroHeader_tseq (s : State) : (s.zeroHeader).tseq = s.tseq := rfl
@[simp] theorem zeroHeader_ackm (s : State) : (s.zeroHeader).ackm = s.ackm := rfl
@[simp] theorem zeroHeader_a (s : State) : (s.zeroHeader).a = s.a := rfl
@[simp] theorem zeroHeader_k (s : State) : (s.zeroHeader).k = s.k := rfl
@[simp] theorem zeroHeader_tr (s : State) : (s.zeroHeader).tr = s.tr := rfl
@[simp] theorem zeroHeader_begun (s : State) : (s.zeroHeader).begun = s.begun := rfl
@[simp] theorem zeroHeader_errk (s : State) : (s.zeroHeader).errk = s.errk := rfl
@[simp] theorem zeroHeader_ready (s : State) : (s.zeroHeader).ready = s.ready := rfl
@[simp] theorem zeroHeader_rx (s : State) : (s.zeroHeader).rx = s.rx := rfl
@[simp] theorem zeroHeader_draws (s : State) : (s.zeroHeader).draws = s.draws := rfl
@[simp] theorem zeroHeader_busUp (s : State) : (s.zeroHeader).busUp = s.busUp := rfl
@[simp] theorem zeroHeader_host (s : State) : (s.zeroHeader).host = s.host := rfl
@[simp] theorem zeroHeader_hostWaits (s : State) : (s.zeroHeader).hostWaits = s.hostWaits := rfl
@[simp] theorem zeroHeader_hostRd (s : State) : (s.zeroHeader).hostRd = s.hostRd := rfl
@[simp] theorem zeroHeader_xmAt (s : State) (y : Nat) : (s.zeroHeader).xmAt y = s.xmAt y := rfl

/-! `putField` -/
@[simp] theorem putField_cfg (s : State) (x : Nat) (bs : List Byte) : (s.putField x bs).cfg = s.cfg := rfl
@[simp] theorem putField_fb (s : State) (x : Nat) (bs : List Byte) : (s.putField x bs).fb = memPut s.cfg.cap s.fb (hdr + x) bs := rfl
@[simp] theorem putField_xm (s : State) (x : Nat) (bs : List Byte) : (s.putField x bs).xm = s.xm := rfl
@[simp] theorem putField_sel (s : State) (x : Nat) (bs : List Byte) : (s.putField x bs).sel = s.sel := rfl
@[simp] theorem putField_ph (s : State) (x : Nat) (bs : List Byte) : (s.putField x bs).ph = s.ph := rfl
@[simp] theorem putField_ds (s : State) (x : Nat) (bs : List Byte) : (s.putField x bs).ds = s.ds := rfl
@[simp] theorem putField_exp (s : State) (x : Nat) (bs : List Byte) : (s.putField x bs).exp = s.exp := rfl
@[simp] theorem putField_expv (s : State) (x : Nat) (bs : List Byte) : (s.putField x bs).expv = s.expv := rfl
@[simp] theorem putField_spin (s : State) (x : Nat) (bs : List Byte) : (s.putField x bs).spin = s.spin := rfl
@[simp] theorem putField_iter (s : State) (x : Nat) (bs : List Byte) : (s.putField x bs).iter = s.iter := rfl
@[simp] theorem putField_wid (s : State) (x : Nat) (bs : List Byte) : (s.putField x bs).wid = s.wid := rfl
@[simp] theorem putField_xoff (s : State) (x : Nat) (bs : List Byte) : (s.putField x bs).xoff = s.xoff := rfl
@[simp] theorem putField_cmd (s : State) (x : Nat) (bs : List Byte) : (s.putField x bs).cmd = s.cmd := rfl
@[simp] theorem putField_busy (s : State) (x : Nat) (bs : List Byte) : (s.putField x bs).busy = s.busy := rfl
@[simp] theorem putField_done (s : State) (x : Nat) (bs : List Byte) : (s.putField x bs).done = s.done := rfl
@[simp] theorem putField_msgw (s : State) (x : Nat) (bs : List Byte) : (s.putField x bs).msgw = s.msgw := rfl
@[simp] theorem putField_res (s : State) (x : Nat) (bs : List Byte) : (s.putField x bs).res = s.res := rfl
@[simp] theorem putField_autowait (s : State) (x : Nat) (bs : List Byte) : (s.putField x bs).autowait = s.autowait := rfl
@[simp] theorem putField_verbose (s : State) (x : Nat) (bs : List Byte) : (s.putField x bs).verbose = s.verbose := rfl
@[simp] theorem putField_tseq (s : State) (x : Nat) (bs : List Byte) : (s.putField x bs).tseq = s.tseq := rfl
@[simp] theorem putField_ackm (s : State) (x : Nat) (bs : List Byte) : (s.putField x bs).ackm = s.ackm := rfl
@[simp] theorem putField_a (s : State) (x : Nat) (bs : List Byte) : (s.putField x bs).a = s.a := rfl
@[simp] theorem putField_k (s : State) (x : Nat) (bs : List Byte) : (s.putField x bs).k = s.k := rfl
@[simp] theorem putField_tr (s : State) (x : Nat) (bs : List Byte) : (s.putField x bs).tr = s.tr := rfl
@[simp] theorem putField_begun (s : State) (x : Nat) (bs : List Byte) : (s.putField x bs).begun = s.begun := rfl
@[simp] theorem putField_errk (s : State) (x : Nat) (bs : List Byte) : (s.putField x bs).errk = s.errk := rfl
@[simp] theorem putField_ready (s : State) (x : Nat) (bs : List Byte) : (s.putField x bs).ready = s.ready := rfl
@[simp] theorem putField_rx (s : State) (x : Nat) (bs : List Byte) : (s.putField x bs).rx = s.rx := rfl
@[simp] theorem putField_draws (s : State) (x : Nat) (bs : List Byte) : (s.putField x bs).draws = s.draws := rfl
@[simp] theorem putField_busUp (s : State) (x : Nat) (bs : List Byte) : (s.putField x bs).busUp = s.busUp := rfl
@[simp] theorem putField_host (s : State) (x : Nat) (bs : List Byte) : (s.putField x bs).host = s.host := rfl
@[simp] theorem putField_hostWaits (s : State) (x : Nat) (bs : List Byte) : (s.putField x bs).hostWaits = s.hostWaits := rfl
@[simp] theorem putField_hostRd (s : State) (x : Nat) (bs : List Byte) : (s.putField x bs).hostRd = s.hostRd := rfl
@[simp] theorem putField_xmAt (s : State) (x : Nat) (bs : List Byte) (y : Nat) : (s.putField x bs).xmAt y = s.xmAt y := rfl

/-! `emit` -/
@[simp] theorem emit_cfg (s : State) (e : Event) : (s.emit e).cfg = s.cfg := rfl
@[simp] theorem emit_fb (s : State) (e : Event) : (s.emit e).fb = s.fb := rfl
@[simp] theorem emit_xm (s : State) (e : Event) : (s.emit e).xm = s.xm := rfl
@[simp] theorem emit_sel (s : State) (e : Event) : (s.emit e).sel = s.sel := rfl
@[simp] theorem emit_ph (s : State) (e : Event) : (s.emit e).ph = s.ph := rfl
@[simp] theorem emit_ds (s : State) (e : Event) : (s.emit e).ds = s.ds := rfl
@[simp] theorem emit_exp (s : State) (e : Event) : (s.emit e).exp = s.exp := rfl
@[simp] theorem emit_expv (s : State) (e : Event) : (s.emit e).expv = s.expv := rfl
@[simp] theorem emit_spin (s : State) (e : Event) : (s.emit e).spin = s.spin := rfl
@[simp] theorem emit_iter (s : State) (e : Event) : (s.emit e).iter = s.iter := rfl
@[simp] theorem emit_wid (s : State) (e : Event) : (s.emit e).wid = s.wid := rfl
@[simp] theorem emit_xoff (s : State) (e : Event) : (s.emit e).xoff = s.xoff := rfl
@[simp] theorem emit_cmd (s : State) (e : Event) : (s.emit e).cmd = s.cmd := rfl
@[simp] theorem emit_busy (s : State) (e : Event) : (s.emit e).busy = s.busy := rfl
@[simp] theorem emit_done (s : State) (e : Event) : (s.emit e).done = s.done := rfl
@[simp] theorem emit_msgw (s : State) (e : Event) : (s.emit e).msgw = s.msgw := rfl
@[simp] theorem emit_res (s : State) (e : Event) : (s.emit e).res = s.res := rfl
@[simp] theorem emit_autowait (s : State) (e : Event) : (s.emit e).autowait = s.autowait := rfl
@[simp] theorem emit_verbose (s : State) (e : Event) : (s.emit e).verbose = s.verbose := rfl
@[simp] theorem emit_tseq (s : State) (e : Event) : (s.emit e).tseq = s.tseq := rfl
@[simp] theorem emit_ackm (s : State) (e : Event) : (s.emit e).ackm = s.ackm := rfl
@[simp] theorem emit_a (s : State) (e : Event) : (s.emit e).a = s.a := rfl
@[simp] theorem emit_k (s : State) (e : Event) : (s.emit e).k = s.k := rfl
@[simp] theorem emit_tr (s : State) (e : Event) : (s.emit e).tr = s.tr ++ [e] := rfl
@[simp] theorem emit_begun (s : State) (e : Event) : (s.emit e).begun = s.begun := rfl
@[simp] theorem emit_errk (s : State) (e : Event) : (s.emit e).errk = s.errk := rfl
@[simp] theorem emit_ready (s : State) (e : Event) : (s.emit e).ready = s.ready := rfl
@[simp] theorem emit_rx (s : State) (e : Event) : (s.emit e).rx = s.rx := rfl
@[simp] theorem emit_draws (s : State) (e : Event) : (s.emit e).draws = s.draws := rfl
@[simp] theorem emit_busUp (s : State) (e : Event) : (s.emit e).busUp = s.busUp := rfl
@[simp] theorem emit_host (s : State) (e : Event) : (s.emit e).host = s.host := rfl
@[simp] theorem emit_hostWaits (s : State) (e : Event) : (s.emit e).hostWaits = s.hostWaits := rfl
@[simp] theorem emit_hostRd (s : State) (e : Event) : (s.emit e).hostRd = s.hostRd := rfl
@[simp] theorem emit_fbAt (s : State) (e : Event) (y : Nat) : (s.emit e).fbAt y = s.fbAt y := rfl
@[simp] theorem emit_xmAt (s : State) (e : Event) (y : Nat) : (s.emit e).xmAt y = s.xmAt y := rfl
@[simp] theorem emit_frameLen (s : State) (e : Event) : (s.emit e).frameLen = s.frameLen := rfl
@[simp] theorem emit_frameCid (s : State) (e : Event) : (s.emit e).frameCid = s.frameCid := rfl

/-! `toPh` -/
@[simp] theorem toPh_cfg (s : State) (p : Phase) : (s.toPh p).cfg = s.cfg := rfl
@[simp] theorem toPh_fb (s : State) (p : Phase) : (s.toPh p).fb = s.fb := rfl
@[simp] theorem toPh_xm (s : State) (p : Phase) : (s.toPh p).xm = s.xm := rfl
@[simp] theorem toPh_sel (s : State) (p : Phase) : (s.toPh p).sel = s.sel := rfl
@[simp] theorem toPh_ph (s : State) (p : Phase) : (s.toPh p).ph = p := rfl
@[simp] theorem toPh_ds (s : State) (p : Phase) : (s.toPh p).ds = s.ds := rfl
@[simp] theorem toPh_exp (s : State) (p : Phase) : (s.toPh p).exp = s.exp := rfl
@[simp] theorem toPh_expv (s : State) (p : Phase) : (s.toPh p).expv = s.expv := rfl
@[simp] theorem toPh_spin (s : State) (p : Phase) : (s.toPh p).spin = s.spin := rfl
@[simp] theorem toPh_iter (s : State) (p : Phase) : (s.toPh p).iter = s.iter := rfl
@[simp] theorem toPh_wid (s : State) (p : Phase) : (s.toPh p).wid = s.wid := rfl
@[simp] theorem toPh_xoff (s : State) (p : Phase) : (s.toPh p).xoff = s.xoff := rfl
@[simp] theorem toPh_cmd (s : State) (p : Phase) : (s.toPh p).cmd = s.cmd := rfl
@[simp] theorem toPh_busy (s : State) (p : Phase) : (s.toPh p).busy = s.busy := rfl
@[simp] theorem toPh_done (s : State) (p : Phase) : (s.toPh p).done = s.done := rfl
@[simp] theorem toPh_msgw (s : State) (p : Phase) : (s.toPh p).msgw = s.msgw := rfl
@[simp] theorem toPh_res (s : State) (p : Phase) : (s.toPh p).res = s.res := rfl
@[simp] theorem toPh_autowait (s : State) (p : Phase) : (s.toPh p).autowait = s.autowait := rfl
@[simp] theorem toPh_verbose (s : State) (p : Phase) : (s.toPh p).verbose = s.verbose := rfl
@[simp] theorem toPh_tseq (s : State) (p : Phase) : (s.toPh p).tseq = s.tseq := rfl
@[simp] theorem toPh_ackm (s : State) (p : Phase) : (s.toPh p).ackm = s.ackm := rfl
@[simp] theorem toPh_a (s : State) (p : Phase) : (s.toPh p).a = s.a := rfl
@[simp] theorem toPh_k (s : State) (p : Phase) : (s.toPh p).k = s.k := rfl
@[simp] theorem toPh_tr (s : State) (p : Phase) : (s.toPh p).tr = s.tr := rfl
@[simp] theorem toPh_begun (s : State) (p : Phase) : (s.toPh p).begun = s.begun := rfl
@[simp] theorem toPh_errk (s : State) (p : Phase) : (s.toPh p).errk = s.errk := rfl
@[simp] theorem toPh_ready (s : State) (p : Phase) : (s.toPh p).ready = s.ready := rfl
@[simp] theorem toPh_rx (s : State) (p : Phase) : (s.toPh p).rx = s.rx := rfl
@[simp] theorem toPh_draws (s : State) (p : Phase) : (s.toPh p).draws = s.draws := rfl
@[simp] theorem toPh_busUp (s : State) (p : Phase) : (s.toPh p).busUp = s.busUp := rfl
@[simp] theorem toPh_host (s : State) (p : Phase) : (s.toPh p).host = s.host := rfl
@[simp] theorem toPh_hostWaits (s : State) (p : Phase) : (s.toPh p).hostWaits = s.hostWaits := rfl
@[simp] theorem toPh_hostRd (s : State) (p : Phase) : (s.toPh p).hostRd = s.hostRd := rfl
@[simp] theorem toPh_fbAt (s : State) (p : Phase) (y : Nat) : (s.toPh p).fbAt y = s.fbAt y := rfl
@[simp] theorem toPh_xmAt (s : State) (p : Phase) (y : Nat) : (s.toPh p).xmAt y = s.xmAt y := rfl
@[simp] theorem toPh_frameLen (s : State) (p : Phase) : (s.toPh p).frameLen = s.frameLen := rfl
@[simp] theorem toPh_frameCid (s : State) (p : Phase) : (s.toPh p).frameCid = s.frameCid := rfl

/-! `toDs` -/
@[simp] theorem toDs_cfg (s : State) (d : DState) : (s.toDs d).cfg = s.cfg := rfl
@[simp] theorem toDs_fb (s : State) (d : DState) : (s.toDs d).fb = s.fb := rfl
@[simp] theorem toDs_xm (s : State) (d : DState) : (s.toDs d).xm = s.xm := rfl
@[simp] theorem toDs_sel (s : State) (d : DState) : (s.toDs d).sel = s.sel := rfl
@[simp] theorem toDs_ph (s : State) (d : DState) : (s.toDs d).ph = s.ph := rfl
@[simp] theorem toDs_ds (s : State) (d : DState) : (s.toDs d).ds = d := rfl
@[simp] theorem toDs_exp (s : State) (d : DState) : (s.toDs d).exp = s.exp := rfl
@[simp] theorem toDs_expv (s : State) (d : DState) : (s.toDs d).expv = s.expv := rfl
@[simp] theorem toDs_spin (s : State) (d : DState) : (s.toDs d).spin = s.spin := rfl
@[simp] theorem toDs_iter (s : State) (d : DState) : (s.toDs d).iter = s.iter := rfl
@[simp] theorem toDs_wid (s : State) (d : DState) : (s.toDs d).wid = s.wid := rfl
@[simp] theorem toDs_xoff (s : State) (d : DState) : (s.toDs d).xoff = s.xoff := rfl
@[simp] theorem toDs_cmd (s : State) (d : DState) : (s.toDs d).cmd = s.cmd := rfl
@[simp] theorem toDs_busy (s : State) (d : DState) : (s.toDs d).busy = s.busy := rfl
@[simp] theorem toDs_done (s : State) (d : DState) : (s.toDs d).done = s.done := rfl
@[simp] theorem toDs_msgw (s : State) (d : DState) : (s.toDs d).msgw = s.msgw := rfl
@[simp] theorem toDs_res (s : State) (d : DState) : (s.toDs d).res = s.res := rfl
@[simp] theorem toDs_autowait (s : State) (d : DState) : (s.toDs d).autowait = s.autowait := rfl
@[simp] theorem toDs_verbose (s : State) (d : DState) : (s.toDs d).verbose = s.verbose := rfl
@[simp] theorem toDs_tseq (s : State) (d : DState) : (s.toDs d).tseq = s.tseq := rfl
@[simp] theorem toDs_ackm (s : State) (d : DState) : (s.toDs d).ackm = s.ackm := rfl
@[simp] theorem toDs_a (s : State) (d : DState) : (s.toDs d).a = s.a := rfl
@[simp] theorem toDs_k (s : State) (d : DState) : (s.toDs d).k = s.k := rfl
@[simp] theorem toDs_tr (s : State) (d : DState) : (s.toDs d).tr = s.tr := rfl
@[simp] theorem toDs_begun (s : State) (d : DState) : (s.toDs d).begun = s.begun := rfl
@[simp] theorem toDs_errk (s : State) (d : DState) : (s.toDs d).errk = s.errk := rfl
@[simp] theorem toDs_ready (s : State) (d : DState) : (s.toDs d).ready = s.ready := rfl
@[simp] theorem toDs_rx (s : State) (d : DState) : (s.toDs d).rx = s.rx := rfl
@[simp] theorem toDs_draws (s : State) (d : DState) : (s.toDs d).draws = s.draws := rfl
@[simp] theorem toDs_busUp (s : State) (d : DState) : (s.toDs d).busUp = s.busUp := rfl
@[simp] theorem toDs_host (s : State) (d : DState) : (s.toDs d).host = s.host := rfl
@[simp] theorem toDs_hostWaits (s : State) (d : DState) : (s.toDs d).hostWaits = s.hostWaits := rfl
@[simp] theorem toDs_hostRd (s : State) (d : DState) : (s.toDs d).hostRd = s.hostRd := rfl
@[simp] theorem toDs_fbAt (s : State) (d : DState) (y : Nat) : (s.toDs d).fbAt y = s.fbAt y := rfl
@[simp] theorem toDs_xmAt (s : State) (d : DState) (y : Nat) : (s.toDs d).xmAt y = s.xmAt y := rfl
@[simp] theorem toDs_frameLen (s : State) (d : DState) : (s.toDs d).frameLen = s.frameLen := rfl
@[simp] theorem toDs_frameCid (s : State) (d : DState) : (s.toDs d).frameCid = s.frameCid := rfl

/-! `setSelect` -/
@[simp] theorem setSelect_cfg (s : State) (b : Bool) : (s.setSelect b).cfg = s.cfg := rfl
@[simp] theorem setSelect_fb (s : State) (b : Bool) : (s.setSelect b).fb = s.fb := rfl
@[simp] theorem setSelect_xm (s : State) (b : Bool) : (s.setSelect b).xm = s.xm := rfl
@[simp] theorem setSelect_sel (s : State) (b : Bool) : (s.setSelect b).sel = b := rfl
@[simp] theorem setSelect_ph (s : State) (b : Bool) : (s.setSelect b).ph = s.ph := rfl
@[simp] theorem setSelect_ds (s : State) (b : Bool) : (s.setSelect b).ds = s.ds := rfl
@[simp] theorem setSelect_exp (s : State) (b : Bool) : (s.setSelect b).exp = s.exp := rfl
@[simp] theorem setSelect_expv (s : State) (b : Bool) : (s.setSelect b).expv = s.expv := rfl
@[simp] theorem setSelect_spin (s : State) (b : Bool) : (s.setSelect b).spin = s.spin := rfl
@[simp] theorem setSelect_iter (s : State) (b : Bool) : (s.setSelect b).iter = s.iter := rfl
@[simp] theorem setSelect_wid (s : State) (b : Bool) : (s.setSelect b).wid = s.wid := rfl
@[simp] theorem setSelect_xoff (s : State) (b : Bool) : (s.setSelect b).xoff = s.xoff := rfl
@[simp] theorem setSelect_cmd (s : State) (b : Bool) : (s.setSelect b).cmd = s.cmd := rfl
@[simp] theorem setSelect_busy (s : State) (b : Bool) : (s.setSelect b).busy = s.busy := rfl
@[simp] theorem setSelect_done (s : State) (b : Bool) : (s.setSelect b).done = s.done := rfl
@[simp] theorem setSelect_msgw (s : State) (b : Bool) : (s.setSelect b).msgw = s.msgw := rfl
@[simp] theorem setSelect_res (s : State) (b : Bool) : (s.setSelect b).res = s.res := rfl
@[simp] theorem setSelect_autowait (s : State) (b : Bool) : (s.setSelect b).autowait = s.autowait := rfl
@[simp] theorem setSelect_verbose (s : State) (b : Bool) : (s.setSelect b).verbose = s.verbose := rfl
@[simp] theorem setSelect_tseq (s : State) (b : Bool) : (s.setSelect b).tseq = s.tseq := rfl
@[simp] theorem setSelect_ackm (s : State) (b : Bool) : (s.setSelect b).ackm = s.ackm := rfl
@[simp] theorem setSelect_a (s : State) (b : Bool) : (s.setSelect b).a = s.a := rfl
@[simp] theorem setSelect_k (s : State) (b : Bool) : (s.setSelect b).k = s.k := rfl
@[simp] theorem setSelect_tr (s : State) (b : Bool) : (s.setSelect b).tr = s.tr ++ [.setSel b] := rfl
@[simp] theorem setSelect_begun (s : State) (b : Bool) : (s.setSelect b).begun = s.begun := rfl
@[simp] theorem setSelect_errk (s : State) (b : Bool) : (s.setSelect b).errk = s.errk := rfl
@[simp] theorem setSelect_ready (s : State) (b : Bool) : (s.setSelect b).ready = s.ready := rfl
@[simp] theorem setSelect_rx (s : State) (b : Bool) : (s.setSelect b).rx = s.rx := rfl
@[simp] theorem setSelect_draws (s : State) (b : Bool) : (s.setSelect b).draws = s.draws := rfl
@[simp] theorem setSelect_busUp (s : State) (b : Bool) : (s.setSelect b).busUp = s.busUp := rfl
@[simp] theorem setSelect_host (s : State) (b : Bool) : (s.setSelect b).host = s.host := rfl
@[simp] theorem setSelect_hostWaits (s : State) (b : Bool) : (s.setSelect b).hostWaits = s.hostWaits := rfl
@[simp] theorem setSelect_hostRd (s : State) (b : Bool) : (s.setSelect b).hostRd = s.hostRd := rfl
@[simp] theorem setSelect_fbAt (s : State) (b : Bool) (y : Nat) : (s.setSelect b).fbAt y = s.fbAt y := rfl
@[simp] theorem setSelect_xmAt (s : State) (b : Bool) (y : Nat) : (s.setSelect b).xmAt y = s.xmAt y := rfl
@[simp] theorem setSelect_frameLen (s : State) (b : Bool) : (s.setSelect b).frameLen = s.frameLen := rfl
@[simp] theorem setSelect_frameCid (s : State) (b : Bool) : (s.setSelect b).frameCid = s.frameCid := rfl

/-! `busReset` -/
@[simp] theorem busReset_cfg (s : State) : (s.busReset).cfg = s.cfg := rfl
@[simp] theorem busReset_fb (s : State) : (s.busReset).fb = s.fb := rfl
@[simp] theorem busReset_xm (s : State) : (s.busReset).xm = s.xm := rfl
@[simp] theorem busReset_sel (s : State) : (s.busReset).sel = false := rfl
@[simp] theorem busReset_ph (s : State) : (s.busReset).ph = s.ph := rfl
@[simp] theorem busReset_ds (s : State) : (s.busReset).ds = s.ds := rfl
@[simp] theorem busReset_exp (s : State) : (s.busReset).exp = s.exp := rfl
@[simp] theorem busReset_expv (s : State) : (s.busReset).expv = s.expv := rfl
@[simp] theorem busReset_spin (s : State) : (s.busReset).spin = s.spin := rfl
@[simp] theorem busReset_iter (s : State) : (s.busReset).iter = s.iter := rfl
@[simp] theorem busReset_wid (s : State) : (s.busReset).wid = s.wid := rfl
@[simp] theorem busReset_xoff (s : State) : (s.busReset).xoff = s.xoff := rfl
@[simp] theorem busReset_cmd (s : State) : (s.busReset).cmd = s.cmd := rfl
@[simp] theorem busReset_busy (s : State) : (s.busReset).busy = s.busy := rfl
@[simp] theorem busReset_done (s : State) : (s.busReset).done = s.done := rfl
@[simp] theorem busReset_msgw (s : State) : (s.busReset).msgw = s.msgw := rfl
@[simp] theorem busReset_res (s : State) : (s.busReset).res = s.res := rfl
@[simp] theorem busReset_autowait (s : State) : (s.busReset).autowait = s.autowait := rfl
@[simp] theorem busReset_verbose (s : State) : (s.busReset).verbose = s.verbose := rfl
@[simp] theorem busReset_tseq (s : State) : (s.busReset).tseq = s.tseq := rfl
@[simp] theorem busReset_ackm (s : State) : (s.busReset).ackm = s.ackm := rfl
@[simp] theorem busReset_a (s : State) : (s.busReset).a = s.a := rfl
@[simp] theorem busReset_k (s : State) : (s.busReset).k = s.k := rfl
@[simp] theorem busReset_tr (s : State) : (s.busReset).tr = s.tr ++ [.busReset] := rfl
@[simp] theorem busReset_begun (s : State) : (s.busReset).begun = s.begun := rfl
@[simp] theorem busReset_errk (s : State) : (s.busReset).errk = s.errk := rfl
@[simp] theorem busReset_ready (s : State) : (s.busReset).ready = s.ready := rfl
@[simp] theorem busReset_rx (s : State) : (s.busReset).rx = s.rx := rfl
@[simp] theorem busReset_draws (s : State) : (s.busReset).draws = s.draws := rfl
@[simp] theorem busReset_busUp (s : State) : (s.busReset).busUp = s.busUp := rfl
@[simp] theorem busReset_host (s : State) : (s.busReset).host = s.host := rfl
@[simp] theorem busReset_hostWaits (s : State) : (s.busReset).hostWaits = s.hostWaits := rfl
@[simp] theorem busReset_hostRd (s : State) : (s.busReset).hostRd = s.hostRd := rfl
@[simp] theorem busReset_fbAt (s : State) (y : Nat) : (s.busReset).fbAt y = s.fbAt y := rfl
@[simp] theorem busReset_xmAt (s : State) (y : Nat) : (s.busReset).xmAt y = s.xmAt y := rfl
@[simp] theorem busReset_frameLen (s : State) : (s.busReset).frameLen = s.frameLen := rfl
@[simp] theorem busReset_frameCid (s : State) : (s.busReset).frameCid = s.frameCid := rfl

/-! `sampled` -/
@[simp] theorem sampled_cfg (s : State) : (s.sampled).cfg = s.cfg := rfl
@[simp] theorem sampled_fb (s : State) : (s.sampled).fb = s.fb := rfl
@[simp] theorem sampled_xm (s : State) : (s.sampled).xm = s.xm := rfl
@[simp] theorem sampled_sel (s : State) : (s.sampled).sel = s.sel := rfl
@[simp] theorem sampled_ph (s : State) : (s.sampled).ph = s.ph := rfl
@[simp] theorem sampled_ds (s : State) : (s.sampled).ds = s.ds := rfl
@[simp] theorem sampled_exp (s : State) : (s.sampled).exp = s.exp := rfl
@[simp] theorem sampled_expv (s : State) : (s.sampled).expv = s.expv := rfl
@[simp] theorem sampled_spin (s : State) : (s.sampled).spin = s.spin := rfl
@[simp] theorem sampled_iter (s : State) : (s.sampled).iter = s.iter := rfl
@[simp] theorem sampled_wid (s : State) : (s.sampled).wid = s.wid := rfl
@[simp] theorem sampled_xoff (s : State) : (s.sampled).xoff = s.xoff := rfl
@[simp] theorem sampled_cmd (s : State) : (s.sampled).cmd = s.cmd := rfl
@[simp] theorem sampled_busy (s : State) : (s.sampled).busy = s.busy := rfl
@[simp] theorem sampled_done (s : State) : (s.sampled).done = s.done := rfl
@[simp] theorem sampled_msgw (s : State) : (s.sampled).msgw = s.msgw := rfl
@[simp] theorem sampled_res (s : State) : (s.sampled).res = s.res := rfl
@[simp] theorem sampled_autowait (s : State) : (s.sampled).autowait = s.autowait := rfl
@[simp] theorem sampled_verbose (s : State) : (s.sampled).verbose = s.verbose := rfl
@[simp] theorem sampled_tseq (s : State) : (s.sampled).tseq = s.tseq := rfl
@[simp] theorem sampled_ackm (s : State) : (s.sampled).ackm = s.ackm := rfl
@[simp] theorem sampled_a (s : State) : (s.sampled).a = s.a := rfl
@[simp] theorem sampled_k (s : State) : (s.sampled).k = s.k := rfl
@[simp] theorem sampled_tr (s : State) : (s.sampled).tr = s.tr ++ [.rdRdy s.nextReady] := rfl
@[simp] theorem sampled_begun (s : State) : (s.sampled).begun = s.begun := rfl
@[simp] theorem sampled_errk (s : State) : (s.sampled).errk = s.errk := rfl
@[simp] theorem sampled_ready (s : State) : (s.sampled).ready = s.ready.tail := rfl
@[simp] theorem sampled_rx (s : State) : (s.sampled).rx = s.rx := rfl
@[simp] theorem sampled_draws (s : State) : (s.sampled).draws = if s.ready.isEmpty then s.draws + 1 else s.draws := rfl
@[simp] theorem sampled_busUp (s : State) : (s.sampled).busUp = s.busUp := rfl
@[simp] theorem sampled_host (s : State) : (s.sampled).host = s.host := rfl
@[simp] theorem sampled_hostWaits (s : State) : (s.sampled).hostWaits = s.hostWaits := rfl
@[simp] theorem sampled_hostRd (s : State) : (s.sampled).hostRd = s.hostRd := rfl
@[simp] theorem sampled_fbAt (s : State) (y : Nat) : (s.sampled).fbAt y = s.fbAt y := rfl
@[simp] theorem sampled_xmAt (s : State) (y : Nat) : (s.sampled).xmAt y = s.xmAt y := rfl
@[simp] theorem sampled_frameLen (s : State) : (s.sampled).frameLen = s.frameLen := rfl
@[simp] theorem sampled_frameCid (s : State) : (s.sampled).frameCid = s.frameCid := rfl

/-! `endOp` -/
@[simp] theorem endOp_cfg (s : State) (v : Byte) : (s.endOp v).cfg = s.cfg := rfl
@[simp] theorem endOp_fb (s : State) (v : Byte) : (s.endOp v).fb = s.fb := rfl
@[simp] theorem endOp_xm (s : State) (v : Byte) : (s.endOp v).xm = s.xm := rfl
@[simp] theorem endOp_sel (s : State) (v : Byte) : (s.endOp v).sel = s.sel := rfl
@[simp] theorem endOp_ph (s : State) (v : Byte) : (s.endOp v).ph = s.ph := rfl
@[simp] theorem endOp_ds (s : State) (v : Byte) : (s.endOp v).ds = .dIdle := rfl
@[simp] theorem endOp_exp (s : State) (v : Byte) : (s.endOp v).exp = s.exp := rfl
@[simp] theorem endOp_expv (s : State) (v : Byte) : (s.endOp v).expv = s.expv := rfl
@[simp] theorem endOp_spin (s : State) (v : Byte) : (s.endOp v).spin = s.spin := rfl
@[simp] theorem endOp_iter (s : State) (v : Byte) : (s.endOp v).iter = s.iter := rfl
@[simp] theorem endOp_wid (s : State) (v : Byte) : (s.endOp v).wid = s.wid := rfl
@[simp] theorem endOp_xoff (s : State) (v : Byte) : (s.endOp v).xoff = s.xoff := rfl
@[simp] theorem endOp_cmd (s : State) (v : Byte) : (s.endOp v).cmd = s.cmd := rfl
@[simp] theorem endOp_busy (s : State) (v : Byte) : (s.endOp v).busy = false := rfl
@[simp] theorem endOp_done (s : State) (v : Byte) : (s.endOp v).done = true := rfl
@[simp] theorem endOp_msgw (s : State) (v : Byte) : (s.endOp v).msgw = s.msgw := rfl
@[simp] theorem endOp_res (s : State) (v : Byte) : (s.endOp v).res = v := rfl
@[simp] theorem endOp_autowait (s : State) (v : Byte) : (s.endOp v).autowait = s.autowait := rfl
@[simp] theorem endOp_verbose (s : State) (v : Byte) : (s.endOp v).verbose = s.verbose := rfl
@[simp] theorem endOp_tseq (s : State) (v : Byte) : (s.endOp v).tseq = s.tseq := rfl
@[simp] theorem endOp_ackm (s : State) (v : Byte) : (s.endOp v).ackm = s.ackm := rfl
@[simp] theorem endOp_a (s : State) (v : Byte) : (s.endOp v).a = s.a := rfl
@[simp] theorem endOp_k (s : State) (v : Byte) : (s.endOp v).k = s.k := rfl
@[simp] theorem endOp_tr (s : State) (v : Byte) : (s.endOp v).tr = s.tr ++ s.diagEvents v := rfl
@[simp] theorem endOp_begun (s : State) (v : Byte) : (s.endOp v).begun = s.begun := rfl
@[simp] theorem endOp_errk (s : State) (v : Byte) : (s.endOp v).errk = s.errk := rfl
@[simp] theorem endOp_ready (s : State) (v : Byte) : (s.endOp v).ready = s.ready := rfl
@[simp] theorem endOp_rx (s : State) (v : Byte) : (s.endOp v).rx = s.rx := rfl
@[simp] theorem endOp_draws (s : State) (v : Byte) : (s.endOp v).draws = s.draws := rfl
@[simp] theorem endOp_busUp (s : State) (v : Byte) : (s.endOp v).busUp = s.busUp := rfl
@[simp] theorem endOp_host (s : State) (v : Byte) : (s.endOp v).host = s.host := rfl
@[simp] theorem endOp_hostWaits (s : State) (v : Byte) : (s.endOp v).hostWaits = s.hostWaits := rfl
@[simp] theorem endOp_hostRd (s : State) (v : Byte) : (s.endOp v).hostRd = s.hostRd := rfl
@[simp] theorem endOp_fbAt (s : State) (v : Byte) (y : Nat) : (s.endOp v).fbAt y = s.fbAt y := rfl
@[simp] theorem endOp_xmAt (s : State) (v : Byte) (y : Nat) : (s.endOp v).xmAt y = s.xmAt y := rfl
@[simp] theorem endOp_frameLen (s : State) (v : Byte) : (s.endOp v).frameLen = s.frameLen := rfl
@[simp] theorem endOp_frameCid (s : State) (v : Byte) : (s.endOp v).frameCid = s.frameCid := rfl

/-! `failWith` -/
@[simp] theorem failWith_cfg (s : State) (q : ResultKind) : (s.failWith q).cfg = s.cfg := rfl
@[simp] theorem failWith_fb (s : State) (q : ResultKind) : (s.failWith q).fb = s.fb := rfl
@[simp] theorem failWith_xm (s : State) (q : ResultKind) : (s.failWith q).xm = s.xm := rfl
@[simp] theorem failWith_sel (s : State) (q : ResultKind) : (s.failWith q).sel = s.sel := rfl
@[simp] theorem failWith_ph (s : State) (q : ResultKind) : (s.failWith q).ph = s.ph := rfl
@[simp] theorem failWith_ds (s : State) (q : ResultKind) : (s.failWith q).ds = .dIdle := rfl
@[simp] theorem failWith_exp (s : State) (q : ResultKind) : (s.failWith q).exp = s.exp := rfl
@[simp] theorem failWith_expv (s : State) (q : ResultKind) : (s.failWith q).expv = s.expv := rfl
@[simp] theorem failWith_spin (s : State) (q : ResultKind) : (s.failWith q).spin = s.spin := rfl
@[simp] theorem failWith_iter (s : State) (q : ResultKind) : (s.failWith q).iter = s.iter := rfl
@[simp] theorem failWith_wid (s : State) (q : ResultKind) : (s.failWith q).wid = s.wid := rfl
@[simp] theorem failWith_xoff (s : State) (q : ResultKind) : (s.failWith q).xoff = s.xoff := rfl
@[simp] theorem failWith_cmd (s : State) (q : ResultKind) : (s.failWith q).cmd = s.cmd := rfl
@[simp] theorem failWith_busy (s : State) (q : ResultKind) : (s.failWith q).busy = false := rfl
@[simp] theorem failWith_done (s : State) (q : ResultKind) : (s.failWith q).done = true := rfl
@[simp] theorem failWith_msgw (s : State) (q : ResultKind) : (s.failWith q).msgw = s.msgw := rfl
@[simp] theorem failWith_res (s : State) (q : ResultKind) : (s.failWith q).res = ResultCodes.code s.cfg.rc q := rfl
@[simp] theorem failWith_autowait (s : State) (q : ResultKind) : (s.failWith q).autowait = s.autowait := rfl
@[simp] theorem failWith_verbose (s : State) (q : ResultKind) : (s.failWith q).verbose = s.verbose := rfl
@[simp] theorem failWith_tseq (s : State) (q : ResultKind) : (s.failWith q).tseq = s.tseq := rfl
@[simp] theorem failWith_ackm (s : State) (q : ResultKind) : (s.failWith q).ackm = s.ackm := rfl
@[simp] theorem failWith_a (s : State) (q : ResultKind) : (s.failWith q).a = s.a := rfl
@[simp] theorem failWith_k (s : State) (q : ResultKind) : (s.failWith q).k = s.k := rfl
@[simp] theorem failWith_tr (s : State) (q : ResultKind) : (s.failWith q).tr = s.tr ++ s.diagEvents (ResultCodes.code s.cfg.rc q) := rfl
@[simp] theorem failWith_begun (s : State) (q : ResultKind) : (s.failWith q).begun = s.begun := rfl
@[simp] theorem failWith_errk (s : State) (q : ResultKind) : (s.failWith q).errk = s.errk := rfl
@[simp] theorem failWith_ready (s : State) (q : ResultKind) : (s.failWith q).ready = s.ready := rfl
@[simp] theorem failWith_rx (s : State) (q : ResultKind) : (s.failWith q).rx = s.rx := rfl
@[simp] theorem failWith_draws (s : State) (q : ResultKind) : (s.failWith q).draws = s.draws := rfl
@[simp] theorem failWith_busUp (s : State) (q : ResultKind) : (s.failWith q).busUp = s.busUp := rfl
@[simp] theorem failWith_host (s : State) (q : ResultKind) : (s.failWith q).host = s.host := rfl
@[simp] theorem failWith_hostWaits (s : State) (q : ResultKind) : (s.failWith q).hostWaits = s.hostWaits := rfl
@[simp] theorem failWith_hostRd (s : State) (q : ResultKind) : (s.failWith q).hostRd = s.hostRd := rfl
@[simp] theorem failWith_fbAt (s : State) (q : ResultKind) (y : Nat) : (s.failWith q).fbAt y = s.fbAt y := rfl
@[simp] theorem failWith_xmAt (s : State) (q : ResultKind) (y : Nat) : (s.failWith q).xmAt y = s.xmAt y := rfl
@[simp] theorem failWith_frameLen (s : State) (q : ResultKind) : (s.failWith q).frameLen = s.frameLen := rfl
@[simp] theorem failWith_frameCid (s : State) (q : ResultKind) : (s.failWith q).frameCid = s.frameCid := rfl

/-! `exchangeError` -/
@[simp] theorem exchangeError_cfg (s : State) (q : ResultKind) : (s.exchangeError q).cfg = s.cfg := rfl
@[simp] theorem exchangeError_fb (s : State) (q : ResultKind) : (s.exchangeError q).fb = s.fb := rfl
@[simp] theorem exchangeError_xm (s : State) (q : ResultKind) : (s.exchangeError q).xm = s.xm := rfl
@[simp] theorem exchangeError_sel (s : State) (q : ResultKind) : (s.exchangeError q).sel = false := rfl
@[simp] theorem exchangeError_ph (s : State) (q : ResultKind) : (s.exchangeError q).ph = .error := rfl
@[simp] theorem exchangeError_ds (s : State) (q : ResultKind) : (s.exchangeError q).ds = s.ds := rfl
@[simp] theorem exchangeError_exp (s : State) (q : ResultKind) : (s.exchangeError q).exp = s.exp := rfl
@[simp] theorem exchangeError_expv (s : State) (q : ResultKind) : (s.exchangeError q).expv = s.expv := rfl
@[simp] theorem exchangeError_spin (s : State) (q : ResultKind) : (s.exchangeError q).spin = s.spin := rfl
@[simp] theorem exchangeError_iter (s : State) (q : ResultKind) : (s.exchangeError q).iter = s.iter := rfl
@[simp] theorem exchangeError_wid (s : State) (q : ResultKind) : (s.exchangeError q).wid = s.wid := rfl
@[simp] theorem exchangeError_xoff (s : State) (q : ResultKind) : (s.exchangeError q).xoff = s.xoff := rfl
@[simp] theorem exchangeError_cmd (s : State) (q : ResultKind) : (s.exchangeError q).cmd = s.cmd := rfl
@[simp] theorem exchangeError_busy (s : State) (q : ResultKind) : (s.exchangeError q).busy = s.busy := rfl
@[simp] theorem exchangeError_done (s : State) (q : ResultKind) : (s.exchangeError q).done = s.done := rfl
@[simp] theorem exchangeError_msgw (s : State) (q : ResultKind) : (s.exchangeError q).msgw = s.msgw := rfl
@[simp] theorem exchangeError_res (s : State) (q : ResultKind) : (s.exchangeError q).res = s.res := rfl
@[simp] theorem exchangeError_autowait (s : State) (q : ResultKind) : (s.exchangeError q).autowait = s.autowait := rfl
@[simp] theorem exchangeError_verbose (s : State) (q : ResultKind) : (s.exchangeError q).verbose = s.verbose := rfl
@[simp] theorem exchangeError_tseq (s : State) (q : ResultKind) : (s.exchangeError q).tseq = s.tseq := rfl
@[simp] theorem exchangeError_ackm (s : State) (q : ResultKind) : (s.exchangeError q).ackm = s.ackm := rfl
@[simp] theorem exchangeError_a (s : State) (q : ResultKind) : (s.exchangeError q).a = s.a := rfl
@[simp] theorem exchangeError_k (s : State) (q : ResultKind) : (s.exchangeError q).k = s.k := rfl
@[simp] theorem exchangeError_tr (s : State) (q : ResultKind) : (s.exchangeError q).tr = s.tr ++ [.busReset] := rfl
@[simp] theorem exchangeError_begun (s : State) (q : ResultKind) : (s.exchangeError q).begun = s.begun := rfl
@[simp] theorem exchangeError_errk (s : State) (q : ResultKind) : (s.exchangeError q).errk = q := rfl
@[simp] theorem exchangeError_ready (s : State) (q : ResultKind) : (s.exchangeError q).ready = s.ready := rfl
@[simp] theorem exchangeError_rx (s : State) (q : ResultKind) : (s.exchangeError q).rx = s.rx := rfl
@[simp] theorem exchangeError_draws (s : State) (q : ResultKind) : (s.exchangeError q).draws = s.draws := rfl
@[simp] theorem exchangeError_busUp (s : State) (q : ResultKind) : (s.exchangeError q).busUp = s.busUp := rfl
@[simp] theorem exchangeError_host (s : State) (q : ResultKind) : (s.exchangeError q).host = s.host := rfl
@[simp] theorem exchangeError_hostWaits (s : State) (q : ResultKind) : (s.exchangeError q).hostWaits = s.hostWaits := rfl
@[simp] theorem exchangeError_hostRd (s : State) (q : ResultKind) : (s.exchangeError q).hostRd = s.hostRd := rfl
@[simp] theorem exchangeError_fbAt (s : State) (q : ResultKind) (y : Nat) : (s.exchangeError q).fbAt y = s.fbAt y := rfl
@[simp] theorem exchangeError_xmAt (s : State) (q : ResultKind) (y : Nat) : (s.exchangeError q).xmAt y = s.xmAt y := rfl
@[simp] theorem exchangeError_frameLen (s : State) (q : ResultKind) : (s.exchangeError q).frameLen = s.frameLen := rfl
@[simp] theorem exchangeError_frameCid (s : State) (q : ResultKind) : (s.exchangeError q).frameCid = s.frameCid := rfl

/-! `beginOp` -/
@[simp] theorem beginOp_cfg (s : State) (v : Byte) : (s.beginOp v).cfg = s.cfg := rfl
@[simp] theorem beginOp_fb (s : State) (v : Byte) : (s.beginOp v).fb = s.fb := rfl
@[simp] theorem beginOp_xm (s : State) (v : Byte) : (s.beginOp v).xm = s.xm := rfl
@[simp] theorem beginOp_sel (s : State) (v : Byte) : (s.beginOp v).sel = s.sel := rfl
@[simp] theorem beginOp_ph (s : State) (v : Byte) : (s.beginOp v).ph = s.ph := rfl
@[simp] theorem beginOp_ds (s : State) (v : Byte) : (s.beginOp v).ds = startState v := rfl
@[simp] theorem beginOp_exp (s : State) (v : Byte) : (s.beginOp v).exp = s.exp := rfl
@[simp] theorem beginOp_expv (s : State) (v : Byte) : (s.beginOp v).expv = s.expv := rfl
@[simp] theorem beginOp_spin (s : State) (v : Byte) : (s.beginOp v).spin = s.spin := rfl
@[simp] theorem beginOp_iter (s : State) (v : Byte) : (s.beginOp v).iter = s.iter := rfl
@[simp] theorem beginOp_wid (s : State) (v : Byte) : (s.beginOp v).wid = s.wid := rfl
@[simp] theorem beginOp_xoff (s : State) (v : Byte) : (s.beginOp v).xoff = s.xoff := rfl
@[simp] theorem beginOp_cmd (s : State) (v : Byte) : (s.beginOp v).cmd = v := rfl
@[simp] theorem beginOp_busy (s : State) (v : Byte) : (s.beginOp v).busy = true := rfl
@[simp] theorem beginOp_done (s : State) (v : Byte) : (s.beginOp v).done = false := rfl
@[simp] theorem beginOp_msgw (s : State) (v : Byte) : (s.beginOp v).msgw = s.msgw := rfl
@[simp] theorem beginOp_res (s : State) (v : Byte) : (s.beginOp v).res = s.res := rfl
@[simp] theorem beginOp_autowait (s : State) (v : Byte) : (s.beginOp v).autowait = s.autowait := rfl
@[simp] theorem beginOp_verbose (s : State) (v : Byte) : (s.beginOp v).verbose = s.verbose := rfl
@[simp] theorem beginOp_tseq (s : State) (v : Byte) : (s.beginOp v).tseq = s.tseq := rfl
@[simp] theorem beginOp_ackm (s : State) (v : Byte) : (s.beginOp v).ackm = s.ackm := rfl
@[simp] theorem beginOp_a (s : State) (v : Byte) : (s.beginOp v).a = s.a := rfl
@[simp] theorem beginOp_k (s : State) (v : Byte) : (s.beginOp v).k = s.k := rfl
@[simp] theorem beginOp_tr (s : State) (v : Byte) : (s.beginOp v).tr = s.tr := rfl
@[simp] theorem beginOp_begun (s : State) (v : Byte) : (s.beginOp v).begun = s.begun := rfl
@[simp] theorem beginOp_errk (s : State) (v : Byte) : (s.beginOp v).errk = s.errk := rfl
@[simp] theorem beginOp_ready (s : State) (v : Byte) : (s.beginOp v).ready = s.ready := rfl
@[simp] theorem beginOp_rx (s : State) (v : Byte) : (s.beginOp v).rx = s.rx := rfl
@[simp] theorem beginOp_draws (s : State) (v : Byte) : (s.beginOp v).draws = s.draws := rfl
@[simp] theorem beginOp_busUp (s : State) (v : Byte) : (s.beginOp v).busUp = s.busUp := rfl
@[simp] theorem beginOp_host (s : State) (v : Byte) : (s.beginOp v).host = s.host := rfl
@[simp] theorem beginOp_hostWaits (s : State) (v : Byte) : (s.beginOp v).hostWaits = s.hostWaits := rfl
@[simp] theorem beginOp_hostRd (s : State) (v : Byte) : (s.beginOp v).hostRd = s.hostRd := rfl
@[simp] theorem beginOp_fbAt (s : State) (v : Byte) (y : Nat) : (s.beginOp v).fbAt y = s.fbAt y := rfl
@[simp] theorem beginOp_xmAt (s : State) (v : Byte) (y : Nat) : (s.beginOp v).xmAt y = s.xmAt y := rfl
@[simp] theorem beginOp_frameLen (s : State) (v : Byte) : (s.beginOp v).frameLen = s.frameLen := rfl
@[simp] theorem beginOp_frameCid (s : State) (v : Byte) : (s.beginOp v).frameCid = s.frameCid := rfl

/-! `classifyAs` -/
@[simp] theorem classifyAs_cfg (s : State) (v : Variant) (l : Byte) (c : Word16) : (s.classifyAs v l c).cfg = s.cfg := rfl
@[simp] theorem classifyAs_fb (s : State) (v : Variant) (l : Byte) (c : Word16) : (s.classifyAs v l c).fb = s.fb := rfl
@[simp] theorem classifyAs_xm (s : State) (v : Variant) (l : Byte) (c : Word16) : (s.classifyAs v l c).xm = s.xm := rfl
@[simp] theorem classifyAs_sel (s : State) (v : Variant) (l : Byte) (c : Word16) : (s.classifyAs v l c).sel = s.sel := rfl
@[simp] theorem classifyAs_ph (s : State) (v : Variant) (l : Byte) (c : Word16) : (s.classifyAs v l c).ph = s.ph := rfl
@[simp] theorem classifyAs_ds (s : State) (v : Variant) (l : Byte) (c : Word16) : (s.classifyAs v l c).ds = s.ds := rfl
@[simp] theorem classifyAs_exp (s : State) (v : Variant) (l : Byte) (c : Word16) : (s.classifyAs v l c).exp = s.exp := rfl
@[simp] theorem classifyAs_expv (s : State) (v : Variant) (l : Byte) (c : Word16) : (s.classifyAs v l c).expv = s.expv := rfl
@[simp] theorem classifyAs_spin (s : State) (v : Variant) (l : Byte) (c : Word16) : (s.classifyAs v l c).spin = s.spin := rfl
@[simp] theorem classifyAs_iter (s : State) (v : Variant) (l : Byte) (c : Word16) : (s.classifyAs v l c).iter = s.iter := rfl
@[simp] theorem classifyAs_wid (s : State) (v : Variant) (l : Byte) (c : Word16) : (s.classifyAs v l c).wid = s.wid := rfl
@[simp] theorem classifyAs_xoff (s : State) (v : Variant) (l : Byte) (c : Word16) : (s.classifyAs v l c).xoff = s.xoff := rfl
@[simp] theorem classifyAs_cmd (s : State) (v : Variant) (l : Byte) (c : Word16) : (s.classifyAs v l c).cmd = s.cmd := rfl
@[simp] theorem classifyAs_busy (s : State) (v : Variant) (l : Byte) (c : Word16) : (s.classifyAs v l c).busy = s.busy := rfl
@[simp] theorem classifyAs_done (s : State) (v : Variant) (l : Byte) (c : Word16) : (s.classifyAs v l c).done = s.done := rfl
@[simp] theorem classifyAs_msgw (s : State) (v : Variant) (l : Byte) (c : Word16) : (s.classifyAs v l c).msgw = s.msgw := rfl
@[simp] theorem classifyAs_res (s : State) (v : Variant) (l : Byte) (c : Word16) : (s.classifyAs v l c).res = s.res := rfl
@[simp] theorem classifyAs_autowait (s : State) (v : Variant) (l : Byte) (c : Word16) : (s.classifyAs v l c).autowait = s.autowait := rfl
@[simp] theorem classifyAs_verbose (s : State) (v : Variant) (l : Byte) (c : Word16) : (s.classifyAs v l c).verbose = s.verbose := rfl
@[simp] theorem classifyAs_tseq (s : State) (v : Variant) (l : Byte) (c : Word16) : (s.classifyAs v l c).tseq = s.tseq := rfl
@[simp] theorem classifyAs_ackm (s : State) (v : Variant) (l : Byte) (c : Word16) : (s.classifyAs v l c).ackm = s.ackm := rfl
@[simp] theorem classifyAs_a (s : State) (v : Variant) (l : Byte) (c : Word16) : (s.classifyAs v l c).a = s.a := rfl
@[simp] theorem classifyAs_k (s : State) (v : Variant) (l : Byte) (c : Word16) : (s.classifyAs v l c).k = s.extract (s.selectVariant v l c) (s.classCommon (s.selectVariant v l c) l c) := rfl
@[simp] theorem classifyAs_tr (s : State) (v : Variant) (l : Byte) (c : Word16) : (s.classifyAs v l c).tr = s.tr ++ [.demux (s.selectVariant v l c).code c] := rfl
@[simp] theorem classifyAs_begun (s : State) (v : Variant) (l : Byte) (c : Word16) : (s.classifyAs v l c).begun = s.begun := rfl
@[simp] theorem classifyAs_errk (s : State) (v : Variant) (l : Byte) (c : Word16) : (s.classifyAs v l c).errk = s.errk := rfl
@[simp] theorem classifyAs_ready (s : State) (v : Variant) (l : Byte) (c : Word16) : (s.classifyAs v l c).ready = s.ready := rfl
@[simp] theorem classifyAs_rx (s : State) (v : Variant) (l : Byte) (c : Word16) : (s.classifyAs v l c).rx = s.rx := rfl
@[simp] theorem classifyAs_draws (s : State) (v : Variant) (l : Byte) (c : Word16) : (s.classifyAs v l c).draws = s.draws := rfl
@[simp] theorem classifyAs_busUp (s : State) (v : Variant) (l : Byte) (c : Word16) : (s.classifyAs v l c).busUp = s.busUp := rfl
@[simp] theorem classifyAs_host (s : State) (v : Variant) (l : Byte) (c : Word16) : (s.classifyAs v l c).host = s.host := rfl
@[simp] theorem classifyAs_hostWaits (s : State) (v : Variant) (l : Byte) (c : Word16) : (s.classifyAs v l c).hostWaits = s.hostWaits := rfl
@[simp] theorem classifyAs_hostRd (s : State) (v : Variant) (l : Byte) (c : Word16) : (s.classifyAs v l c).hostRd = s.hostRd := rfl
@[simp] theorem classifyAs_fbAt (s : State) (v : Variant) (l : Byte) (c : Word16) (y : Nat) : (s.classifyAs v l c).fbAt y = s.fbAt y := rfl
@[simp] theorem classifyAs_xmAt (s : State) (v : Variant) (l : Byte) (c : Word16) (y : Nat) : (s.classifyAs v l c).xmAt y = s.xmAt y := rfl
@[simp] theorem classifyAs_frameLen (s : State) (v : Variant) (l : Byte) (c : Word16) : (s.classifyAs v l c).frameLen = s.frameLen := rfl
@[simp] theorem classifyAs_frameCid (s : State) (v : Variant) (l : Byte) (c : Word16) : (s.classifyAs v l c).frameCid = s.frameCid := rfl

end Sys2Proof.Machine
end

