-- ==== Sys2Proof/Laws/Memory.lean ====
section
/-! SUPPORT. The laws of byte memories: what a read gives after a write, and that every operation keeps the canonical
form; then the same for `FB` and `XM`. -/
namespace Sys2Proof.Machine

@[simp] theorem memGet_nil (a : Nat) : memGet [] a = none := rfl

theorem memGet_memSet (m : Memory) (a b : Nat) (v : Byte) :
    memGet (memSet m a v) b = if b = a then some v else memGet m b := by
  induction m with
  | nil => simp [memSet, memGet]
  | cons x m ih =>
    obtain ⟨c, w⟩ := x
    simp only [memSet]
    split
    · simp [memGet]
    · split
      · next h => subst h; by_cases hb : b = a <;> simp [memGet, hb]
      · next h =>
        simp only [memGet, ih]
        by_cases hc : b = c
        · subst hc; simp [Ne.symm h]
        · simp [hc]

theorem mem_memSet {m : Memory} {a : Nat} {v : Byte} {x : Host.Cell} (h : x ∈ memSet m a v) : x.1 = a ∨ x ∈ m := by
  induction m with
  | nil => simp [memSet] at h; simp [h]
  | cons y m ih =>
    obtain ⟨c, w⟩ := y
    simp only [memSet] at h
    split at h
    · simp at h; rcases h with rfl | h <;> simp_all
    · split at h
      · simp at h; rcases h with rfl | h <;> simp_all
      · simp at h; rcases h with rfl | h
        · simp
        · rcases ih h with h | h <;> simp [h]

theorem memSet_rising {m : Memory} (a : Nat) (v : Byte) (h : m.Pairwise (fun x y => x.1 < y.1)) :
    (memSet m a v).Pairwise (fun x y => x.1 < y.1) := by
  induction m with
  | nil => simp [memSet]
  | cons y m ih =>
    obtain ⟨c, w⟩ := y
    obtain ⟨hc, hm⟩ := List.pairwise_cons.mp h
    simp only [memSet]
    split
    · next hac =>
      refine List.pairwise_cons.mpr ⟨fun x hx => ?_, h⟩
      rcases List.mem_cons.mp hx with rfl | hx
      · exact hac
      · exact Nat.lt_trans hac (hc x hx)
    · split
      · next hac => subst hac; exact List.pairwise_cons.mpr ⟨hc, hm⟩
      · refine List.pairwise_cons.mpr ⟨fun x hx => ?_, ih hm⟩
        rcases mem_memSet hx with hx | hx
        · simp only [hx]; omega
        · exact hc x hx

theorem Memory.wf_iff (n : Nat) (m : Memory) :
    Memory.wf n m = true ↔ m.Pairwise (fun x y => x.1 < y.1) ∧ ∀ x ∈ m, x.1 < n := by
  simp [Memory.wf]

theorem memSet_wf {n : Nat} {m : Memory} {a : Nat} (v : Byte) (ha : a < n) (h : Memory.wf n m = true) :
    Memory.wf n (memSet m a v) = true := by
  rw [Memory.wf_iff] at h ⊢
  refine ⟨memSet_rising a v h.1, fun x hx => ?_⟩
  rcases mem_memSet hx with hx | hx
  · omega
  · exact h.2 x hx

/-- Every memory write keeps the canonical form. -/
theorem memPut_wf {n : Nat} {m : Memory} (a : Nat) (bs : List Byte) (h : Memory.wf n m = true) :
    Memory.wf n (memPut n m a bs) = true := by
  induction bs generalizing m a with
  | nil => exact h
  | cons v bs ih =>
    refine ih _ ?_
    split
    · next ha => exact memSet_wf v ha h
    · exact h

/-- A read after a write of consecutive bytes: inside the written range and the memory, the byte written; elsewhere
what was there. -/
theorem memGet_memPut (n : Nat) (m : Memory) (a : Nat) (bs : List Byte) (b : Nat) :
    memGet (memPut n m a bs) b =
      if a ≤ b ∧ b < n then (bs[b - a]?).or (memGet m b) else memGet m b := by
  induction bs generalizing m a with
  | nil => simp [memPut]
  | cons v bs ih =>
    simp only [memPut, ih]
    by_cases hb : b = a
    · subst hb
      by_cases hn : b < n
      · simp [hn, memGet_memSet]
      · simp [hn]
    · have hset : memGet (if a < n then memSet m a v else m) b = memGet m b := by
        split
        · simp [memGet_memSet, hb]
        · rfl
      rw [hset]
      by_cases hab : a + 1 ≤ b
      · have h1 : a ≤ b := by omega
        have h2 : b - a = (b - (a + 1)) + 1 := by omega
        simp [hab, h1, h2]
      · have h1 : ¬ a ≤ b := by omega
        simp [hab, h1]

/-- `FB[b]` after bytes are written at `a`: the byte written if `b` is one of those addresses, else as before. -/
theorem fbPut_fbAt (s : State) (a : Nat) (bs : List Byte) (b : Nat) :
    (s.fbPut a bs).fbAt b = if a ≤ b ∧ b < s.cfg.cap then (bs[b - a]?).getD (s.fbAt b) else s.fbAt b := by
  simp only [State.fbAt, fbPut_fb, memGet_memPut]
  split
  · cases bs[b - a]? <;> simp
  · rfl

/-- `XM[b]` after bytes are written at `a`. -/
theorem xmPut_xmAt (s : State) (a : Nat) (bs : List Byte) (b : Nat) :
    (s.xmPut a bs).xmAt b = if a ≤ b ∧ b < s.cfg.xcap then (bs[b - a]?).getD (s.xmAt b) else s.xmAt b := by
  simp only [State.xmAt, xmPut_xm, memGet_memPut]
  split
  · cases bs[b - a]? <;> simp
  · rfl

theorem fbPut_fbAt_outside (s : State) (a : Nat) (bs : List Byte) {b : Nat} (h : b < a ∨ a + bs.length ≤ b) :
    (s.fbPut a bs).fbAt b = s.fbAt b := by
  rw [fbPut_fbAt]
  split
  · rw [List.getElem?_eq_none (by omega)]; rfl
  · rfl

theorem xmPut_xmAt_outside (s : State) (a : Nat) (bs : List Byte) {b : Nat} (h : b < a ∨ a + bs.length ≤ b) :
    (s.xmPut a bs).xmAt b = s.xmAt b := by
  rw [xmPut_xmAt]
  split
  · rw [List.getElem?_eq_none (by omega)]; rfl
  · rfl

/-- Reading back the bytes just written. -/
theorem fbPut_fbBytes (s : State) (a : Nat) (bs : List Byte) (h : a + bs.length ≤ s.cfg.cap) :
    (s.fbPut a bs).fbBytes a bs.length = bs := by
  apply List.ext_getElem (by simp [State.fbBytes])
  intro i h1 h2
  simp only [State.fbBytes, List.getElem_map, List.getElem_range, fbPut_fbAt]
  rw [if_pos (by omega), show a + i - a = i by omega, List.getElem?_eq_getElem h2]
  rfl

/-- Reading back the bytes just written to `XM`. -/
theorem xmPut_xmBytes (s : State) (a : Nat) (bs : List Byte) (h : a + bs.length ≤ s.cfg.xcap) :
    (s.xmPut a bs).xmBytes a bs.length = bs := by
  apply List.ext_getElem (by simp [State.xmBytes])
  intro i h1 h2
  simp only [State.xmBytes, List.getElem_map, List.getElem_range, xmPut_xmAt]
  rw [if_pos (by omega), show a + i - a = i by omega, List.getElem?_eq_getElem h2]
  rfl

@[simp] theorem fbBytes_length (s : State) (a n : Nat) : (s.fbBytes a n).length = n := by simp [State.fbBytes]
@[simp] theorem xmBytes_length (s : State) (a n : Nat) : (s.xmBytes a n).length = n := by simp [State.xmBytes]

/-- A command id is its two header bytes (R92). -/
theorem be16_msb_lsb (id : Word16) : be16 (msb id) (lsb id) = id := by
  apply BitVec.eq_of_toNat_eq
  simp only [be16, msb, lsb, BitVec.toNat_append, BitVec.toNat_setWidth, BitVec.toNat_ushiftRight]
  have := id.isLt
  rw [Nat.shiftLeft_eq, Nat.shiftRight_eq_div_pow, Nat.mod_eq_of_lt (a := id.toNat / 2 ^ 8) (by omega)]
  rw [← Nat.shiftLeft_eq, ← Nat.shiftLeft_add_eq_or_of_lt (Nat.mod_lt _ (by decide)), Nat.shiftLeft_eq]
  omega

/-- The header the block writes is the header it reads back. -/
theorem putHeader_header (s : State) (len : Byte) (id : Word16) (h : 3 ≤ s.cfg.cap) :
    (s.putHeader len id).fbAt 0 = len ∧ (s.putHeader len id).frameCid = id := by
  have h0 : 0 < s.cfg.cap := by omega
  have h1 : 1 < s.cfg.cap := by omega
  have h2 : 2 < s.cfg.cap := by omega
  refine ⟨by simp [State.putHeader, fbPut_fbAt, h0], ?_⟩
  simp [State.frameCid, State.putHeader, fbPut_fbAt, h1, h2, be16_msb_lsb]

/-- Memory writes keep `FB` in canonical form. -/
theorem fbPut_wf (s : State) (a : Nat) (bs : List Byte) (h : Memory.wf s.cfg.cap s.fb = true) :
    Memory.wf s.cfg.cap (s.fbPut a bs).fb = true := memPut_wf a bs h

/-- Memory writes keep `XM` in canonical form. -/
theorem xmPut_wf (s : State) (a : Nat) (bs : List Byte) (h : Memory.wf s.cfg.xcap s.xm = true) :
    Memory.wf s.cfg.xcap (s.xmPut a bs).xm = true := memPut_wf a bs h

/-- A transfer keeps `FB` in canonical form. -/
theorem transfer_wf (s : State) (off n : Nat) (h : Memory.wf s.cfg.cap s.fb = true) :
    Memory.wf s.cfg.cap (s.transfer off n).fb = true := by
  unfold State.transfer
  split
  · exact h
  · exact memPut_wf _ _ h

/-- The reset memories are in canonical form. -/
theorem reset_wf (c : Cfg) :
    Memory.wf c.cap (State.resetWith c).fb = true ∧ Memory.wf c.xcap (State.resetWith c).xm = true := by
  simp [State.resetWith, Memory.wf]

end Sys2Proof.Machine
end

