-- ==== Sys2Proof/Laws/Classify.lean ====
section
/-! SUPPORT. What a classification does: which variant it selects, its flags, and the whole state after the frame of a
`CLSFY` or of a wait has been interpreted (R210 to R224). -/
namespace Sys2Proof.Machine

/-- `KFLAGS` of a variant that never sets `INLINE`. -/
theorem flags_trunc (b : Bool) : (0#6 ++ BitVec.ofBool false ++ BitVec.ofBool b : Byte) = if b then 1#8 else 0#8 := by
  cases b <;> rfl

/-- `KFLAGS` of a frame that is not truncated. -/
theorem flags_inline (b : Bool) : (0#6 ++ BitVec.ofBool b ++ BitVec.ofBool false : Byte) = if b then 2#8 else 0#8 := by
  cases b <;> rfl

theorem selectVariant_zero (s : State) (v : Variant) (id : Word16) : s.selectVariant v 0#8 id = .noMessage := by
  simp [State.selectVariant]

theorem selectVariant_expected {s : State} {len : Byte} {id : Word16} (v : Variant) (hl : len ≠ 0#8)
    (he : s.expv = true) (hx : s.exp = id) : s.selectVariant v len id = .syncResponse := by
  simp [State.selectVariant, hl, he, hx]

theorem selectVariant_own {s : State} {len : Byte} {id : Word16} (v : Variant) (hl : len ≠ 0#8)
    (hx : ¬ (s.expv = true ∧ s.exp = id)) : s.selectVariant v len id = v := by
  have : ¬ (s.expv = true ∧ id = s.exp) := fun h => hx ⟨h.1, h.2.symm⟩
  simp [State.selectVariant, hl, this]

/-- A received frame at `CLSFY`: classified, and the operation ends with success (R210). -/
theorem receive_clsfy {s : State} (v : Variant) (len : Byte) (id : Word16) (hb : s.busy = true) (hd : s.ds = .dIdle) :
    s.receive v len id = { s with
      k := s.extract (s.selectVariant v len id) (s.classCommon (s.selectVariant v len id) len id),
      tr := s.tr ++ [.demux (s.selectVariant v len id).code id], res := 0#8, busy := false, done := true } := by
  simp [State.receive, hd, State.interpret, State.classifyAs, State.afterClassify, hb, State.endOp, State.diagEvents]

/-- A received frame inside a wait that does not match (R166). -/
theorem receive_miss {s : State} (v : Variant) (len : Byte) (id : Word16) (hd : s.ds = .dWaitClassify)
    (hm : len = 0#8 ∨ id ≠ s.wid) :
    s.receive v len id = { s with
      k := s.extract (s.selectVariant v len id) (s.classCommon (s.selectVariant v len id) len id),
      tr := s.tr ++ [.demux (s.selectVariant v len id).code id], ds := .dWaitDelay } := by
  have h : ¬ (len ≠ 0#8 ∧ id = s.wid) := by
    rcases hm with h | h
    · simp [h]
    · simp [h]
  simp [State.receive, hd, State.interpret, State.classifyAs, State.afterClassify, State.toDs, h]

/-- The three registers every variant writes beside `KIND` stay as `classCommon` has them, and `KIND` too. -/
theorem extract_common (s : State) (v : Variant) (k : ClassOut) :
    (s.extract v k).kind = k.kind ∧ (s.extract v k).kflags = k.kflags ∧ (s.extract v k).cid = k.cid ∧
      (s.extract v k).len = k.len := by
  cases v <;> exact ⟨rfl, rfl, rfl, rfl⟩

/-- The status offset of `SREQ` is its operand (R162). -/
theorem statusOffset_sreq {s : State} (h : s.cmd = 0x10#8) : s.statusOffset = s.a.soff.toNat := by
  simp [State.statusOffset, State.running, decodeOp, h, Except.toOption]

/-- The status offset of every other operation is the schema's (R105, R106). -/
theorem statusOffset_eq {s : State} (h : s.cmd ≠ 0x10#8) : s.statusOffset = s.responseStatus := by
  unfold State.statusOffset State.responseStatus State.running
  generalize s.cmd = v at h
  by_cases h1 : v = 0x11#8
  · subst h1; rfl
  by_cases h2 : v = 0x12#8
  · subst h2; rfl
  by_cases h3 : v = 0x13#8
  · subst h3; rfl
  unfold decodeOp
  rw [if_neg h1, if_neg h2, if_neg h3]
  split_ifs <;> rfl

/-- A response of length `len` at `D_STATUS` that has its status byte (R163). -/
theorem respond_status {s : State} {len : Nat} (h : s.statusOffset < len) :
    s.respond len =
      if s.field8 s.statusOffset = 0#8 then s.afterStatus len else s.endOp (s.field8 s.statusOffset) := by
  have : ¬ len ≤ s.statusOffset := by omega
  simp [State.respond, State.withStatus, State.statusByte, this]

/-- A response too short for its status byte (R163). -/
theorem respond_short {s : State} {len : Nat} (h : len ≤ s.statusOffset) :
    s.respond len = s.busReset.failWith .incorrectSrsp := by
  simp [State.respond, State.withStatus, State.statusByte, h]

end Sys2Proof.Machine
end

