-- ==== Sys2Proof/Laws/Fields.lean ====
section
/-! SUPPORT. Schema fields (R96, R100, R62): reading and writing one is the same little-endian encoding both ways, and at
the widths of the default layouts it is a byte, `LE16`, `LE32` or `LE64` of R11. -/
namespace Sys2Proof.Machine

@[simp] theorem leBytes_length (w v : Nat) : (leBytes w v).length = w := by
  induction w generalizing v with
  | zero => rfl
  | succ w ih => simp [leBytes, ih]

/-- What is written is what is read back, cut to the field's width. -/
theorem leNat_leBytes (w v : Nat) : leNat (leBytes w v) = v % 256 ^ w := by
  induction w generalizing v with
  | zero => simp [leBytes, leNat, Nat.mod_one]
  | succ w ih => rw [leBytes, leNat, ih, Nat.pow_succ', Nat.mod_mul, BitVec.toNat_ofNat]

/-- Byte `i` of a value is the `i`-th of its bytes (R11, R192). -/
theorem ofNat_div_eq {w : Nat} (v : BitVec w) (n : Nat) :
    BitVec.ofNat 8 (v.toNat / 2 ^ n) = v.extractLsb' n 8 := by
  apply BitVec.eq_of_toNat_eq
  simp [BitVec.extractLsb'_toNat, Nat.shiftRight_eq_div_pow]

theorem leBytes_one (v : Byte) : leBytes 1 v.toNat = [v] := by simp [leBytes]

theorem leBytes_two (v : Word16) : leBytes 2 v.toNat = [lsb v, msb v] := by
  simp only [leBytes, List.cons.injEq, and_true]
  constructor <;> apply BitVec.eq_of_toNat_eq <;> simp [lsb, msb, Nat.shiftRight_eq_div_pow]

theorem leBytes_four (v : Word32) :
    leBytes 4 v.toNat = [v.extractLsb' 0 8, v.extractLsb' 8 8, v.extractLsb' 16 8, v.extractLsb' 24 8] := by
  simp [leBytes, Nat.div_div_eq_div_mul, ← ofNat_div_eq]

theorem leBytes_eight (v : Word64) :
    leBytes 8 v.toNat =
      [v.extractLsb' 0 8, v.extractLsb' 8 8, v.extractLsb' 16 8, v.extractLsb' 24 8,
        v.extractLsb' 32 8, v.extractLsb' 40 8, v.extractLsb' 48 8, v.extractLsb' 56 8] := by
  simp [leBytes, Nat.div_div_eq_div_mul, ← ofNat_div_eq]

theorem leNat_one (b : Byte) : leNat [b] = b.toNat := by simp [leNat]

theorem leNat_two (b c : Byte) : leNat [b, c] = (le16 b c).toNat := by
  simp only [leNat, le16, BitVec.toNat_append, Nat.shiftLeft_eq]
  rw [← Nat.shiftLeft_eq, ← Nat.shiftLeft_add_eq_or_of_lt b.isLt, Nat.shiftLeft_eq]
  omega

theorem leNat_four (b c d e : Byte) : leNat [b, c, d, e] = (le32 b c d e).toNat := by
  simp only [leNat, le32, BitVec.toNat_append]
  rw [← Nat.shiftLeft_add_eq_or_of_lt b.isLt, ← Nat.shiftLeft_add_eq_or_of_lt c.isLt,
    ← Nat.shiftLeft_add_eq_or_of_lt d.isLt]
  simp only [Nat.shiftLeft_eq]
  omega

theorem leNat_eight (b c d e f g h i : Byte) : leNat [b, c, d, e, f, g, h, i] = (le64 b c d e f g h i).toNat := by
  simp only [leNat, le64, BitVec.toNat_append]
  rw [← Nat.shiftLeft_add_eq_or_of_lt b.isLt, ← Nat.shiftLeft_add_eq_or_of_lt c.isLt,
    ← Nat.shiftLeft_add_eq_or_of_lt d.isLt, ← Nat.shiftLeft_add_eq_or_of_lt e.isLt,
    ← Nat.shiftLeft_add_eq_or_of_lt f.isLt, ← Nat.shiftLeft_add_eq_or_of_lt g.isLt,
    ← Nat.shiftLeft_add_eq_or_of_lt h.isLt]
  simp only [Nat.shiftLeft_eq]
  omega

/-! ### A field of the frame in `FB`, at the widths of the default layouts -/

@[simp] theorem fieldNat_one (s : State) (k : Nat) : s.fieldNat ⟨k, 1⟩ = (s.fbAt (3 + k)).toNat := by
  simp [State.fieldNat, State.fbBytes, hdr, leNat, List.range_succ]

@[simp] theorem fieldNat_two (s : State) (k : Nat) :
    s.fieldNat ⟨k, 2⟩ = (le16 (s.fbAt (3 + k)) (s.fbAt (3 + k + 1))).toNat := by
  rw [← leNat_two]; simp [State.fieldNat, State.fbBytes, hdr, List.range_succ]

@[simp] theorem field_one (s : State) (k : Nat) : s.field 8 ⟨k, 1⟩ = s.fbAt (3 + k) := by simp [State.field]

@[simp] theorem field_two (s : State) (k : Nat) :
    s.field 16 ⟨k, 2⟩ = le16 (s.fbAt (3 + k)) (s.fbAt (3 + k + 1)) := by simp [State.field]

@[simp] theorem field_four (s : State) (k : Nat) :
    s.field 32 ⟨k, 4⟩ =
      le32 (s.fbAt (3 + k)) (s.fbAt (3 + k + 1)) (s.fbAt (3 + k + 2)) (s.fbAt (3 + k + 3)) := by
  have h : s.fieldNat ⟨k, 4⟩ = _ := leNat_four (s.fbAt (3 + k)) (s.fbAt (3 + k + 1)) (s.fbAt (3 + k + 2))
    (s.fbAt (3 + k + 3))
  simp [State.field, h]

@[simp] theorem field_eight (s : State) (k : Nat) :
    s.field 64 ⟨k, 8⟩ =
      le64 (s.fbAt (3 + k)) (s.fbAt (3 + k + 1)) (s.fbAt (3 + k + 2)) (s.fbAt (3 + k + 3))
        (s.fbAt (3 + k + 4)) (s.fbAt (3 + k + 5)) (s.fbAt (3 + k + 6)) (s.fbAt (3 + k + 7)) := by
  have h : s.fieldNat ⟨k, 8⟩ = _ := leNat_eight (s.fbAt (3 + k)) (s.fbAt (3 + k + 1)) (s.fbAt (3 + k + 2))
    (s.fbAt (3 + k + 3)) (s.fbAt (3 + k + 4)) (s.fbAt (3 + k + 5)) (s.fbAt (3 + k + 6)) (s.fbAt (3 + k + 7))
  simp [State.field, h]

/-- A one-byte length in a 16-bit register (`K_DLEN` of R219). -/
@[simp] theorem field_short (s : State) (k : Nat) : s.field 16 ⟨k, 1⟩ = (s.fbAt (3 + k)).setWidth 16 := by
  apply BitVec.eq_of_toNat_eq
  simp [State.field]

end Sys2Proof.Machine
end

