-- ==== Sys2Proof/Laws/PerInstr.lean ====
section
/-! SUPPORT. The family `Encoding`: every instruction's word has the length its format gives, under every
configuration. -/
namespace Sys2Proof.Laws.Encoding

/-- The word of an instruction is one `CMD` byte (R113) or three header bytes (R90). -/
def Statement (i : Instr) : Prop := ∀ c : Cfg, (encode c i).length = i.format.bytes

theorem xchgRr : Statement .xchgRr := fun _ => rfl
theorem xchgPoll : Statement .xchgPoll := fun _ => rfl
theorem rdyq : Statement .rdyq := fun _ => rfl
theorem clsfy : Statement .clsfy := fun _ => rfl
theorem waitn : Statement .waitn := fun _ => rfl
theorem sreq : Statement .sreq := fun _ => rfl
theorem afsend : Statement .afsend := fun _ => rfl
theorem afsendx : Statement .afsendx := fun _ => rfl
theorem afretrx : Statement .afretrx := fun _ => rfl
theorem poll : Statement .poll := fun _ => rfl
theorem noMessage (cid : Word16) : Statement (.noMessage cid) := fun _ => rfl
theorem afDataRequest (len : Byte) : Statement (.afDataRequest len) := fun _ => rfl
theorem afDataRequestSrsp (len : Byte) : Statement (.afDataRequestSrsp len) := fun _ => rfl
theorem afDataRequestExt : Statement .afDataRequestExt := fun _ => rfl
theorem afDataRequestExtSrsp (len : Byte) : Statement (.afDataRequestExtSrsp len) := fun _ => rfl
theorem afDataStore (len : Byte) : Statement (.afDataStore len) := fun _ => rfl
theorem afDataStoreSrsp (len : Byte) : Statement (.afDataStoreSrsp len) := fun _ => rfl
theorem afDataRetrieve : Statement .afDataRetrieve := fun _ => rfl
theorem afDataRetrieveSrsp (len : Byte) : Statement (.afDataRetrieveSrsp len) := fun _ => rfl
theorem afDataConfirm (len : Byte) : Statement (.afDataConfirm len) := fun _ => rfl
theorem afIncomingMsg (len : Byte) : Statement (.afIncomingMsg len) := fun _ => rfl
theorem afIncomingMsgExt (len : Byte) : Statement (.afIncomingMsgExt len) := fun _ => rfl
theorem zdoStateChangeInd (len : Byte) : Statement (.zdoStateChangeInd len) := fun _ => rfl
theorem zdoEndDeviceAnnceInd (len : Byte) : Statement (.zdoEndDeviceAnnceInd len) := fun _ => rfl
theorem zdoLeaveInd (len : Byte) : Statement (.zdoLeaveInd len) := fun _ => rfl

end Sys2Proof.Laws.Encoding
end

