-- ==== Sys2Proof/Laws/Run.lean ====
section
/-! SUPPORT. Running the block: how `runToDone` unfolds, what the two waits of an exchange do on listed ready levels
(R132), and one lemma for a whole answered exchange (R134, R146). -/
namespace Sys2Proof.Machine

@[simp] theorem runToDone_zero (s : State) : runToDone 0 s = s := rfl

theorem runToDone_of_not_busy {s : State} (h : s.busy = false) (n : Nat) : runToDone n s = s := by
  cases n <;> simp [runToDone, h]

theorem runToDone_succ {s : State} (h : s.busy = true) (n : Nat) : runToDone (n + 1) s = runToDone n s.tick := by
  simp [runToDone, h]

/-- Running on after a run is one longer run. -/
theorem runToDone_add (m n : Nat) (s : State) : runToDone (m + n) s = runToDone n (runToDone m s) := by
  induction m generalizing s with
  | zero => simp
  | succ m ih =>
    rw [show m + 1 + n = m + n + 1 by omega]
    cases h : s.busy
    · rw [runToDone_of_not_busy h, runToDone_of_not_busy h, runToDone_of_not_busy h]
    · rw [runToDone_succ h, runToDone_succ h, ih]

/-- A run that has ended does not change with more steps. -/
theorem runToDone_of_le {m n : Nat} {s t : State} (h : runToDone m s = t) (ht : t.busy = false) (hmn : m ≤ n) :
    runToDone n s = t := by
  obtain ⟨k, rfl⟩ := Nat.exists_eq_add_of_le hmn
  rw [runToDone_add, h, runToDone_of_not_busy ht]

/-- An operation whose run ends inside its allowance answers the state it ends in. -/
theorem operate_next {v : Byte} {exchanges : Bool} {m : Nat} {s t : State} (hf : s.startFault exchanges = none)
    (hm : m ≤ s.allowance) (h : runToDone m (s.beginOp v) = t) (ht : t.busy = false) :
    operate v exchanges s = .next t := by
  simp only [operate, hf, runToDone_of_le h ht hm]

/-- A sample of a listed level. -/
theorem sampled_cons {s : State} {v : Bool} {l : List Bool} (h : s.ready = v :: l) :
    s.sampled = { s with ready := l, tr := s.tr ++ [.rdRdy v] } := by
  simp [State.sampled, State.nextReady, h]

theorem nextReady_cons {s : State} {v : Bool} {l : List Bool} (h : s.ready = v :: l) : s.nextReady = v := by
  simp [State.nextReady, h]

/-- The bytes of a transfer whose answers are all listed. -/
theorem nextBytes_listed {s : State} {bs more : List Byte} {n : Nat} (h : s.rx = bs ++ more) (hn : bs.length = n) :
    s.nextBytes n = bs := by
  subst hn
  simp [State.nextBytes, h]

/-- A transfer whose answers are all listed (R73). -/
theorem transfer_listed {s : State} {bs more : List Byte} {n : Nat} (off : Nat) (h : s.rx = bs ++ more)
    (hn : bs.length = n) (h0 : n ≠ 0) :
    s.transfer off n =
      { s with fb := memPut s.cfg.cap s.fb off bs, rx := more, tr := s.tr ++ [.xfer (s.fbBytes off n) bs] } := by
  have hd : s.draws + (n - s.rx.length) = s.draws := by simp [h]; omega
  simp [State.transfer, h0, nextBytes_listed h hn, hd]
  simp [h, ← hn]

/-- The step of a wait on a listed level that is the awaited one. -/
theorem awaitStep_hit {s : State} {level : Bool} {b : Bound} {next : Phase} {k : ResultKind} {l : List Bool}
    (h : s.ready = level :: l) :
    s.awaitStep level b next k = { s with ready := l, tr := s.tr ++ [.rdRdy level], ph := next } := by
  simp [State.awaitStep, nextReady_cons h, sampled_cons h, State.toPh]

/-- The step of a wait on a listed level that is not the awaited one, before the bound is used up. -/
theorem awaitStep_miss {s : State} {level : Bool} {b : Bound} {next : Phase} {k : ResultKind} {l : List Bool}
    (h : s.ready = (!level) :: l) (hb : b = .inf ∨ 2 ≤ s.spin) :
    ∃ x, s.awaitStep level b next k = { s with ready := l, tr := s.tr ++ [.rdRdy (!level)], spin := x } ∧
      (b ≠ .inf → x = s.spin - 1) := by
  have hne : ¬ (!level) = level := by cases level <;> simp
  simp only [State.awaitStep, nextReady_cons h, sampled_cons h]
  rw [if_neg hne]
  cases b with
  | inf => exact ⟨s.spin, by simp, by simp⟩
  | fin t =>
    have h2 : ¬ s.spin - 1 = 0 := by
      rcases hb with hb | hb
      · cases hb
      · omega
    exact ⟨s.spin - 1, by simp [h2], by simp⟩

/-- A whole wait on listed levels: `p` wrong ones, then the awaited one, inside the bound (R132). The state changes in
`READY`, `SPIN`, the trace and `PH` only. -/
theorem run_await (ph next : Phase) (k : ResultKind) (level : Bool) (g : Cfg → Bound)
    (htick : ∀ t : State, t.ph = ph → t.tick = t.awaitStep level (g t.cfg) next k)
    (p n : Nat) (s : State) (l : List Bool) (hb : s.busy = true) (hph : s.ph = ph)
    (hr : s.ready = List.replicate p (!level) ++ level :: l) (hp : g s.cfg = .inf ∨ p < s.spin) :
    ∃ x, runToDone (n + (p + 1)) s =
      runToDone n { s with
        ready := l, tr := s.tr ++ (List.replicate p (.rdRdy (!level)) ++ [.rdRdy level]), spin := x, ph := next } := by
  induction p generalizing s with
  | zero =>
    refine ⟨s.spin, ?_⟩
    rw [show n + (0 + 1) = n + 1 by omega, runToDone_succ hb, htick s hph, awaitStep_hit (by simpa using hr)]
    simp
  | succ p ih =>
    have hr' : s.ready = (!level) :: (List.replicate p (!level) ++ level :: l) := by simp [hr, List.replicate_succ]
    obtain ⟨x, hx, hxs⟩ := awaitStep_miss (b := g s.cfg) (next := next) (k := k) hr'
      (hp.imp id (by omega))
    rw [show n + (p + 1 + 1) = n + (p + 1) + 1 by omega, runToDone_succ hb, htick s hph, hx]
    obtain ⟨y, hy⟩ := ih { s with ready := _, tr := s.tr ++ [.rdRdy (!level)], spin := x } hb hph rfl
      (by
        by_cases hi : g s.cfg = .inf
        · exact .inl hi
        · have h1 := hxs hi
          have h2 := hp.resolve_left hi
          exact .inr (by simp only [h1]; omega))
    exact ⟨y, by rw [hy]; simp [List.replicate_succ]⟩

/-- `SPIN` right before a wait whose bound allows `p` wrong samples. -/
theorem loadSpin_allows {s : State} {b : Bound} {p : Nat} (h : Bound.allows b p = true) :
    b = .inf ∨ p < (s.loadSpin b).spin := by
  cases b with
  | inf => exact .inl rfl
  | fin t => exact .inr (by simpa [Bound.allows, State.loadSpin] using h)

/-- Setting `SPIN` touches nothing else. -/
theorem loadSpin_eq (s : State) (b : Bound) : ∃ x, s.loadSpin b = { s with spin := x } := by
  cases b
  · exact ⟨s.spin, rfl⟩
  · exact ⟨_, rfl⟩

/-- The three header bytes of a response (R90, R92). -/
def responseHeader (id : Word16) (pay : List Byte) : List Byte := [BitVec.ofNat 8 pay.length, msb id, lsb id]

/-- The frame buffer after an answered exchange (R136): what the Module sent meanwhile, then the zeroed header, then the
response header and its payload. -/
def exchangedFb (cap : Nat) (fb : Memory) (junk : List Byte) (id : Word16) (pay : List Byte) : Memory :=
  memPut cap (memPut cap (memPut cap (memPut cap fb 0 junk) 0 [0#8, 0#8, 0#8]) 0 (responseHeader id pay)) hdr pay

/-- Every byte of the frame buffer after an answered exchange: the response, behind it what the Module sent while the
request went out, behind that what was there. -/
theorem exchangedFb_get (cap : Nat) (fb : Memory) (junk : List Byte) (id : Word16) (pay : List Byte) (a : Nat) :
    memGet (exchangedFb cap fb junk id pay) a =
      if a < cap then ((responseHeader id pay ++ pay)[a]?).or ((junk[a]?).or (memGet fb a)) else memGet fb a := by
  simp only [exchangedFb, memGet_memPut, responseHeader, hdr]
  by_cases ha : a < cap
  · simp only [ha, and_true, Nat.zero_le, Nat.sub_zero, if_true]
    by_cases h3 : 3 ≤ a
    · obtain ⟨b, rfl⟩ := Nat.exists_eq_add_of_le' h3
      simp
    · have : a = 0 ∨ a = 1 ∨ a = 2 := by omega
      rcases this with rfl | rfl | rfl <;> simp
  · simp [ha]

theorem toPh_eq (s : State) (p : Phase) : s.toPh p = { s with ph := p } := rfl
theorem setSelect_eq (s : State) (b : Bool) : s.setSelect b = { s with sel := b, tr := s.tr ++ [.setSel b] } := rfl

/-- `PH = SELECT_ASSERTED` to `PH = TRANSFERRING`: `p` samples at 0, then one at 1 (R137). -/
theorem run_select (p n : Nat) (s : State) (l : List Bool) (hb : s.busy = true) (hph : s.ph = .selectAsserted)
    (hr : s.ready = List.replicate p false ++ true :: l) (hp : Bound.allows s.cfg.tCs p = true) :
    ∃ x, runToDone (n + (p + 2)) s =
      runToDone n { s with
        ready := l, tr := s.tr ++ (List.replicate p (.rdRdy false) ++ [.rdRdy true]), spin := x,
        ph := .transferring } := by
  have ht : s.tick = (s.toPh .awaitingReady).loadSpin s.cfg.tCs := by simp [State.tick, hph, State.selectStep]
  have ha := loadSpin_allows (s := s.toPh .awaitingReady) hp
  obtain ⟨y, hy⟩ := loadSpin_eq (s.toPh .awaitingReady) s.cfg.tCs
  rw [hy] at ha ht
  rw [show n + (p + 2) = n + (p + 1) + 1 by omega, runToDone_succ hb, ht]
  exact run_await .awaitingReady .transferring .chipSelectTimeout true (·.tCs)
    (fun t h => by simp [State.tick, h, State.readyStep]) p n _ l hb rfl hr ha

/-- `PH = TRANSFERRING` to `PH = RX_HEADER`: the frame goes out, then `q` samples at 1 and one at 0 (R136, R138). -/
theorem run_send (q n : Nat) (s : State) (l : List Bool) (junk more : List Byte) (hb : s.busy = true)
    (hph : s.ph = .transferring) (hr : s.ready = List.replicate q true ++ false :: l)
    (hq : Bound.allows s.cfg.tSrsp q = true) (hrx : s.rx = junk ++ more) (hj : junk.length = hdr + s.frameLen) :
    ∃ x, runToDone (n + (q + 2)) s =
      runToDone n { s with
        fb := memPut s.cfg.cap (memPut s.cfg.cap s.fb 0 junk) 0 [0#8, 0#8, 0#8], rx := more, ready := l,
        tr := s.tr ++ ([.xfer (s.fbBytes 0 (hdr + s.frameLen)) junk] ++
          (List.replicate q (.rdRdy true) ++ [.rdRdy false])),
        spin := x, ph := .rxHeader } := by
  have h3 : hdr + s.frameLen ≠ 0 := by simp [hdr]
  have ht : s.tick = ((s.transfer 0 (hdr + s.frameLen)).zeroHeader.toPh .awaitingReadyRelease).loadSpin s.cfg.tSrsp := by
    simp [State.tick, hph, State.sendStep]
  rw [transfer_listed 0 hrx hj h3] at ht
  obtain ⟨u, hu⟩ : ∃ u : State, u = { s with
      fb := memPut s.cfg.cap (memPut s.cfg.cap s.fb 0 junk) 0 [0#8, 0#8, 0#8], rx := more,
      tr := s.tr ++ [.xfer (s.fbBytes 0 (hdr + s.frameLen)) junk], ph := .awaitingReadyRelease } := ⟨_, rfl⟩
  have ht2 : s.tick = u.loadSpin s.cfg.tSrsp := by rw [ht, hu]; rfl
  have hcu : u.cfg = s.cfg := by rw [hu]
  have ha := loadSpin_allows (s := u) hq
  obtain ⟨y, hy⟩ := loadSpin_eq u s.cfg.tSrsp
  rw [hy] at ha ht2
  rw [show n + (q + 2) = n + (q + 1) + 1 by omega, runToDone_succ hb, ht2]
  obtain ⟨x, hx⟩ := run_await .awaitingReadyRelease .rxHeader .srspTimeout false (·.tSrsp)
    (fun t h => by simp [State.tick, h, State.releaseStep]) q n { u with spin := y } l
    (by rw [hu]; exact hb) (by rw [hu]) (by rw [hu]; exact hr) (by rw [← hcu] at ha; exact ha)
  refine ⟨x, ?_⟩
  rw [hx, hu]
  simp

/-- `PH = RX_HEADER` to `PH = COMPLETE`: the header, the payload if there is one, select released (R134). -/
theorem run_response (n : Nat) (s : State) (pay more : List Byte) (id : Word16) (hb : s.busy = true)
    (hph : s.ph = .rxHeader) (hcap : hdr ≤ s.cfg.cap) (hpay : pay.length ≤ s.cfg.nmax) (hpay2 : pay.length < 256)
    (hrx : s.rx = responseHeader id pay ++ (pay ++ more)) :
    ∃ stale, stale.length = pay.length ∧
      runToDone (n + (1 + if pay.length = 0 then 0 else 1)) s =
      runToDone n { s with
        fb := memPut s.cfg.cap (memPut s.cfg.cap s.fb 0 (responseHeader id pay)) hdr pay, rx := more,
        tr := s.tr ++ ([.xfer (s.fbBytes 0 hdr) (responseHeader id pay)] ++
          ((if pay.length = 0 then [] else [.xfer stale pay]) ++ [.setSel false])),
        sel := false, ph := .complete } := by
  obtain ⟨u, hu⟩ : ∃ u : State, u = { s with
      fb := memPut s.cfg.cap s.fb 0 (responseHeader id pay), rx := pay ++ more,
      tr := s.tr ++ [.xfer (s.fbBytes 0 hdr) (responseHeader id pay)] } := ⟨_, rfl⟩
  have hlen : u.frameLen = pay.length := by
    have h0 : 0 < s.cfg.cap := by simp only [hdr] at hcap; omega
    subst hu
    simp only [State.frameLen, State.fbAt, memGet_memPut, responseHeader]
    simp [h0, Nat.mod_eq_of_lt hpay2]
  have ht : s.tick = u.headerReceived := by
    simp only [State.tick, hph, State.headerStep]
    rw [transfer_listed (n := hdr) 0 hrx rfl (by simp [hdr]), hu]
  have hcfg : u.cfg = s.cfg := by rw [hu]
  have hbu : u.busy = true := by rw [hu]; exact hb
  have hhr : u.headerReceived = if pay.length = 0 then (u.setSelect false).toPh .complete else u.toPh .rxPayload := by
    simp only [State.headerReceived, hlen, hcfg]
    rw [if_neg (by omega)]
  rw [hhr] at ht
  refine ⟨(u.toPh .rxPayload).fbBytes hdr pay.length, by simp, ?_⟩
  by_cases h0 : pay.length = 0
  · have hp : pay = [] := List.length_eq_zero_iff.mp h0
    rw [if_pos h0] at ht
    rw [if_pos h0, Nat.add_zero, runToDone_succ hb, ht, hu]
    simp [State.setSelect, State.toPh, hp, memPut]
  · rw [if_neg h0] at ht
    have ht2 : (u.toPh .rxPayload).tick =
        (((u.toPh .rxPayload).transfer hdr pay.length).setSelect false).toPh .complete := by
      simp [State.tick, State.toPh, State.payloadStep, State.frameLen, State.fbAt]
      simp [State.frameLen, State.fbAt] at hlen
      simp [hlen]
    rw [transfer_listed (bs := pay) (more := more) hdr (by rw [hu]; rfl) rfl h0] at ht2
    rw [if_neg h0, show n + (1 + 1) = n + 1 + 1 by omega, runToDone_succ hb, ht, runToDone_succ (by simpa using hbu), ht2, hu]
    simp [State.setSelect, State.toPh, h0]

/-- One answered exchange from `PH = SELECT_ASSERTED` to `PH = COMPLETE` (R134, R146): the ready levels and the bytes of
the Module are used up, `FB` holds the response, the trace is that of a successful exchange behind its `SetSel(1)`. -/
theorem run_exchange (n p q : Nat) (s : State) (levels : List Bool) (junk pay more : List Byte) (id : Word16)
    (hb : s.busy = true) (hph : s.ph = .selectAsserted) (hcap : hdr ≤ s.cfg.cap)
    (hpay : pay.length ≤ s.cfg.nmax) (hpay2 : pay.length < 256)
    (hp : Bound.allows s.cfg.tCs p = true) (hq : Bound.allows s.cfg.tSrsp q = true)
    (hj : junk.length = hdr + s.frameLen)
    (hready : s.ready = readyLevels p q ++ levels) (hrx : s.rx = replyBytes junk id pay ++ more) :
    ∃ x stale, stale.length = pay.length ∧
      runToDone (n + (p + q + 5 + (if pay.length = 0 then 0 else 1))) s =
        runToDone n { s with
          ph := .complete, sel := false, spin := x, fb := exchangedFb s.cfg.cap s.fb junk id pay,
          ready := levels, rx := more,
          tr := s.tr ++ (exchangeTrace p q (s.fbBytes 0 (hdr + s.frameLen)) junk id pay stale).tail } := by
  obtain ⟨m, hm⟩ : ∃ m, m = (1 + if pay.length = 0 then 0 else 1) := ⟨_, rfl⟩
  rw [show n + (p + q + 5 + (if pay.length = 0 then 0 else 1)) = n + m + (q + 2) + (p + 2) by rw [hm]; omega]
  obtain ⟨x1, h1⟩ := run_select p (n + m + (q + 2)) s (List.replicate q true ++ [false] ++ levels) hb hph
    (by simp [hready, readyLevels]) hp
  rw [h1]
  obtain ⟨x2, h2⟩ := run_send q (n + m) { s with
      ready := List.replicate q true ++ [false] ++ levels,
      tr := s.tr ++ (List.replicate p (.rdRdy false) ++ [.rdRdy true]), spin := x1, ph := .transferring }
    levels junk (responseHeader id pay ++ (pay ++ more)) hb rfl (by simp) hq (by simp [hrx, replyBytes, responseHeader]) hj
  rw [h2, hm]
  obtain ⟨u, hu⟩ : ∃ u : State, u = { s with
      fb := memPut s.cfg.cap (memPut s.cfg.cap s.fb 0 junk) 0 [0#8, 0#8, 0#8],
      rx := responseHeader id pay ++ (pay ++ more), ready := levels,
      tr := (s.tr ++ (List.replicate p (.rdRdy false) ++ [.rdRdy true])) ++
        ([.xfer (s.fbBytes 0 (hdr + s.frameLen)) junk] ++ (List.replicate q (.rdRdy true) ++ [.rdRdy false])),
      spin := x2, ph := .rxHeader } := ⟨_, rfl⟩
  have hz : u.fbBytes 0 hdr = [0#8, 0#8, 0#8] := by
    have h := fbPut_fbBytes { s with fb := memPut s.cfg.cap s.fb 0 junk } 0 [0#8, 0#8, 0#8] hcap
    rw [hu]
    exact h
  obtain ⟨stale, hs, h3⟩ := run_response n u pay more id (by rw [hu]; exact hb) (by rw [hu]) (by rw [hu]; exact hcap)
    (by rw [hu]; exact hpay) hpay2 (by rw [hu])
  refine ⟨x2, stale, hs, ?_⟩
  rw [hz, hu] at h3
  refine Eq.trans h3 ?_
  simp [exchangeTrace, exchangedFb, responseHeader]

end Sys2Proof.Machine
end

