-- ==== Sys2Proof/Laws/Tick.lean ====
section
/-! SUPPORT. What one step of the block never does: the registers it only reads, the trace it only extends; and the
one induction over a run (R35, R31, R32, R37). -/
namespace Sys2Proof.Machine

/-- What the block keeps along every run: a property that each of its steps keeps. -/
theorem runToDone_induction {P : State → Prop} (h : ∀ s, s.busy = true → P s → P s.tick) (n : Nat) {s : State}
    (hs : P s) : P (runToDone n s) := by
  induction n generalizing s with
  | zero => exact hs
  | succ n ih =>
    cases hb : s.busy
    · rwa [runToDone_of_not_busy hb]
    · rw [runToDone_succ hb]
      exact ih (h s hb hs)

/-- `t` has the operands, the session and control registers, the configuration and the Host's fields of `s`, and a
trace that extends its trace. -/
structure Kept (s t : State) : Prop where
  a : t.a = s.a
  ackm : t.ackm = s.ackm
  autowait : t.autowait = s.autowait
  verbose : t.verbose = s.verbose
  cfg : t.cfg = s.cfg
  busUp : t.busUp = s.busUp
  host : t.host = s.host
  hostWaits : t.hostWaits = s.hostWaits
  hostRd : t.hostRd = s.hostRd
  tr : s.tr <+: t.tr

theorem Kept.refl (s : State) : Kept s s := ⟨rfl, rfl, rfl, rfl, rfl, rfl, rfl, rfl, rfl, List.prefix_rfl⟩

theorem Kept.trans {s t u : State} (h : Kept s t) (g : Kept t u) : Kept s u :=
  ⟨g.a.trans h.a, g.ackm.trans h.ackm, g.autowait.trans h.autowait, g.verbose.trans h.verbose, g.cfg.trans h.cfg,
    g.busUp.trans h.busUp, g.host.trans h.host, g.hostWaits.trans h.hostWaits, g.hostRd.trans h.hostRd,
    h.tr.trans g.tr⟩

/-- A record update of other fields, with `es` appended to the trace, keeps all this. -/
theorem Kept.of_append {s t : State} (es : List Event)
    (h : t.a = s.a ∧ t.ackm = s.ackm ∧ t.autowait = s.autowait ∧ t.verbose = s.verbose ∧ t.cfg = s.cfg ∧
      t.busUp = s.busUp ∧ t.host = s.host ∧ t.hostWaits = s.hostWaits ∧ t.hostRd = s.hostRd ∧ t.tr = s.tr ++ es) :
    Kept s t := by
  obtain ⟨h1, h2, h3, h4, h5, h6, h7, h8, h9, h10⟩ := h
  exact ⟨h1, h2, h3, h4, h5, h6, h7, h8, h9, h10 ▸ List.prefix_append _ _⟩

/-- A record update of other fields keeps all this. -/
theorem Kept.of_eq {s t : State}
    (h : t.a = s.a ∧ t.ackm = s.ackm ∧ t.autowait = s.autowait ∧ t.verbose = s.verbose ∧ t.cfg = s.cfg ∧
      t.busUp = s.busUp ∧ t.host = s.host ∧ t.hostWaits = s.hostWaits ∧ t.hostRd = s.hostRd ∧ t.tr = s.tr) :
    Kept s t := Kept.of_append [] (by simpa using h)

/-! ### The named operations -/

theorem kept_fbPut (s : State) (x : Nat) (bs : List Byte) : Kept s (s.fbPut x bs) := .of_eq (by simp)
theorem kept_xmPut (s : State) (x : Nat) (bs : List Byte) : Kept s (s.xmPut x bs) := .of_eq (by simp)
theorem kept_toPh (s : State) (p : Phase) : Kept s (s.toPh p) := .of_eq (by simp)
theorem kept_toDs (s : State) (d : DState) : Kept s (s.toDs d) := .of_eq (by simp)
theorem kept_emit (s : State) (e : Event) : Kept s (s.emit e) := .of_append [e] (by simp)
theorem kept_setSelect (s : State) (b : Bool) : Kept s (s.setSelect b) := .of_append [.setSel b] (by simp)
theorem kept_busReset (s : State) : Kept s s.busReset := .of_append [.busReset] (by simp)
theorem kept_sampled (s : State) : Kept s s.sampled := .of_append [.rdRdy s.nextReady] (by simp)
theorem kept_endOp (s : State) (v : Byte) : Kept s (s.endOp v) := .of_append (s.diagEvents v) (by simp)
theorem kept_failWith (s : State) (k : ResultKind) : Kept s (s.failWith k) := kept_endOp s _
theorem kept_loadSpin (s : State) (b : Bound) : Kept s (s.loadSpin b) := by
  obtain ⟨x, h⟩ := loadSpin_eq s b
  exact h ▸ .of_eq (by simp)
theorem kept_transfer (s : State) (off n : Nat) : Kept s (s.transfer off n) := by
  unfold State.transfer
  split
  · exact .refl s
  · exact .of_append _ ⟨rfl, rfl, rfl, rfl, rfl, rfl, rfl, rfl, rfl, rfl⟩
theorem kept_exchangeError (s : State) (k : ResultKind) : Kept s (s.exchangeError k) :=
  (kept_busReset s).trans (.of_eq (by simp [State.exchangeError]))
theorem kept_putFields (s : State) (fs : List (Nat × List Byte)) : Kept s (s.putFields fs) := by
  unfold State.putFields
  induction fs generalizing s with
  | nil => exact .refl s
  | cons f fs ih => exact (kept_fbPut s _ _).trans (ih _)
theorem kept_classifyAs (s : State) (v : Variant) (len : Byte) (id : Word16) : Kept s (s.classifyAs v len id) :=
  .of_append _ ⟨rfl, rfl, rfl, rfl, rfl, rfl, rfl, rfl, rfl, rfl⟩

/-! ### The steps -/

theorem kept_startWait (s : State) (id : Word16) (tmo : Byte) : Kept s (s.startWait id tmo) := by
  unfold State.startWait
  split
  · exact .trans (.of_eq (by simp)) (kept_failWith _ _)
  · exact .of_eq (by simp)
theorem kept_startBuild (s : State) (len : Nat) (id : Word16) : Kept s (s.startBuild len id) :=
  (kept_fbPut s _ _).trans (kept_toDs _ _)
theorem kept_confirmWait (s : State) : Kept s s.confirmWait := by
  unfold State.confirmWait
  split
  · exact kept_startWait s _ _
  · exact kept_endOp s _
theorem kept_sreqWait (s : State) : Kept s s.sreqWait := by
  unfold State.sreqWait
  split
  · exact kept_startWait s _ _
  · exact kept_endOp s _
theorem kept_withStatus {s ok : State} (len soff : Nat) (h : Kept s ok) : Kept s (s.withStatus len soff ok) := by
  unfold State.withStatus
  split
  · exact (kept_busReset s).trans (kept_failWith _ _)
  · split
    · exact h
    · exact kept_endOp s _
theorem kept_nextChunk (s : State) : Kept s s.nextChunk := .of_eq (by simp [State.nextChunk])
theorem kept_afsendxNext (s : State) : Kept s s.afsendxNext := by
  unfold State.afsendxNext
  split
  · exact .of_eq (by simp)
  · split
    · exact kept_confirmWait s
    · exact kept_nextChunk s
theorem kept_afretrxNext (s : State) (len : Nat) : Kept s (s.afretrxNext len) := by
  unfold State.afretrxNext
  split
  · exact (kept_busReset s).trans (kept_failWith _ _)
  · split
    · exact kept_endOp s _
    · exact (kept_xmPut s _ _).trans (kept_nextChunk _)
theorem kept_afterStatus (s : State) (len : Nat) : Kept s (s.afterStatus len) := by
  unfold State.afterStatus
  split
  · exact kept_sreqWait s
  · exact kept_confirmWait s
  · exact kept_afsendxNext s
  · exact kept_afretrxNext s len
  · exact kept_endOp s _
theorem kept_respond (s : State) (len : Nat) : Kept s (s.respond len) := kept_withStatus _ _ (kept_afterStatus s len)
theorem kept_afterExchange (s : State) : Kept s s.afterExchange := by
  unfold State.afterExchange
  split
  · exact kept_toDs s _
  · split
    · split
      · exact kept_toDs s _
      · exact kept_sreqWait s
    · exact kept_toDs s _
    · exact kept_toDs s _
    · exact kept_toDs s _
    · exact kept_endOp s _
theorem kept_validateStep (s : State) : Kept s s.validateStep := by
  unfold State.validateStep
  split
  · split
    · exact kept_failWith s _
    · exact kept_startBuild s _ _
  · exact kept_startWait s _ _
  · split
    · exact kept_failWith s _
    · exact kept_startBuild s _ _
  · split
    · exact kept_failWith s _
    · exact .trans (.of_eq (by simp)) (kept_startBuild _ _ _)
  · split
    · exact kept_failWith s _
    · exact .trans (.of_eq (by simp)) (kept_startBuild _ _ _)
  · exact kept_failWith s _
theorem kept_matched (s : State) (len : Nat) : Kept s (s.matched len) := by
  unfold State.matched
  split
  · exact kept_withStatus _ _ (kept_endOp s _)
  · exact kept_withStatus _ _ (kept_endOp s _)
  · exact kept_endOp s _
theorem kept_afterClassify (s : State) (len : Byte) (id : Word16) : Kept s (s.afterClassify len id) := by
  unfold State.afterClassify
  split
  · split
    · exact kept_matched s _
    · exact kept_toDs s _
  · split
    · exact kept_endOp s _
    · exact .refl s
theorem kept_interpret (s : State) (v : Variant) (len : Byte) (id : Word16) : Kept s (s.interpret v len id) :=
  (kept_classifyAs s v len id).trans (kept_afterClassify _ len id)
theorem kept_buildRequest (s : State) (len : Byte) : Kept s (s.buildRequest len) :=
  ((kept_fbPut s 0 [len, msb s.cfg.cid.afDataRequest, lsb s.cfg.cid.afDataRequest]).trans
    (kept_fbPut _ hdr (s.requestPayload (len.toNat - requestFixed)))).trans
      (.of_eq ⟨rfl, rfl, rfl, rfl, rfl, rfl, rfl, rfl, rfl, rfl⟩)
theorem kept_buildSendExt (s : State) : Kept s s.buildSendExt := by
  have h := (kept_fbPut s 0 [BitVec.ofNat 8 s.cfg.schema.sendExt.fixed, msb s.cfg.cid.afDataRequestExt,
    lsb s.cfg.cid.afDataRequestExt]).trans (kept_putFields _ s.sendExtFields)
  unfold State.buildSendExt State.putHeader
  revert h
  generalize State.putFields _ _ = u
  exact fun h => h.trans (.of_eq (by simp))
theorem kept_buildStore (s : State) (len : Byte) : Kept s (s.buildStore len) :=
  (kept_fbPut s _ _).trans ((kept_putFields _ _).trans (kept_toDs _ _))
theorem kept_buildRetrieve (s : State) : Kept s s.buildRetrieve :=
  (kept_fbPut s _ _).trans ((kept_putFields _ _).trans (kept_toDs _ _))
theorem kept_buildStep (s : State) : Kept s s.buildStep := by
  unfold State.buildStep
  split
  · exact kept_toDs s _
  · split
    · exact kept_buildRequest s _
    · exact kept_buildSendExt s
    · exact kept_buildStore s _
    · exact kept_buildRetrieve s
    · exact kept_toDs s _
theorem kept_sampleStep (s : State) : Kept s s.sampleStep := (kept_sampled s).trans (kept_toDs _ _)
theorem kept_delayStep (s : State) : Kept s s.delayStep := by
  unfold State.delayStep
  split
  · exact (kept_emit s (.delay s.cfg.pollMs)).trans (.trans (.of_eq (by simp)) (kept_failWith _ _))
  · exact (kept_emit s (.delay s.cfg.pollMs)).trans (.of_eq (by simp))
theorem kept_chunkStep (s : State) : Kept s s.chunkStep := by
  unfold State.chunkStep
  split
  · exact kept_startBuild s _ _
  · exact kept_startBuild s _ _
  · exact kept_failWith s _
theorem kept_directStep (s : State) : Kept s s.directStep := by
  unfold State.directStep
  split
  · exact (kept_sampled s).trans (.trans (.of_eq (by simp)) (kept_endOp _ _))
  · exact kept_interpret s _ _ _
  · exact kept_failWith s _
theorem kept_pollStart (s : State) : Kept s s.pollStart :=
  (kept_fbPut s 0 [0#8, 0#8, 0#8]).trans
    (.trans (.of_eq (t := { s.zeroHeader with expv := false }) (by simp [State.zeroHeader]))
      ((kept_setSelect _ _).trans (kept_toPh _ _)))
theorem kept_requestStart (s : State) : Kept s s.requestStart := by
  unfold State.requestStart
  split
  · exact kept_exchangeError s _
  · exact .trans (.of_eq (by simp)) ((kept_setSelect _ _).trans (kept_toPh _ _))
theorem kept_exchangeStep (s : State) : Kept s s.exchangeStep := by
  unfold State.exchangeStep
  split
  · exact kept_pollStart s
  · exact kept_requestStart s
theorem kept_awaitStep (s : State) (level : Bool) (b : Bound) (next : Phase) (k : ResultKind) :
    Kept s (s.awaitStep level b next k) := by
  unfold State.awaitStep
  split
  · exact (kept_sampled s).trans (kept_toPh _ _)
  · split
    · exact kept_sampled s
    · split
      · exact (kept_sampled s).trans (.trans (.of_eq (by simp)) (kept_exchangeError _ _))
      · exact (kept_sampled s).trans (.of_eq (by simp))
theorem kept_sendStep (s : State) : Kept s s.sendStep :=
  (kept_transfer s _ _).trans ((kept_fbPut _ _ _).trans ((kept_toPh _ _).trans (kept_loadSpin _ _)))
theorem kept_headerReceived (s : State) : Kept s s.headerReceived := by
  unfold State.headerReceived
  split
  · exact kept_exchangeError s _
  · split
    · exact (kept_setSelect s _).trans (kept_toPh _ _)
    · exact kept_toPh s _
theorem kept_payloadStep (s : State) : Kept s s.payloadStep :=
  (kept_transfer s _ _).trans ((kept_setSelect _ _).trans (kept_toPh _ _))
theorem kept_completeStep (s : State) : Kept s s.completeStep := by
  unfold State.completeStep
  split
  · exact kept_exchangeError s _
  · exact (kept_toPh s _).trans (kept_afterExchange _)

/-- One step of the block, whatever it does. -/
theorem kept_tick (s : State) : Kept s s.tick := by
  unfold State.tick
  split
  · unfold State.idlePhaseStep
    split
    · exact kept_directStep s
    · exact kept_validateStep s
    · exact kept_buildStep s
    · exact kept_exchangeStep s
    · exact kept_respond s _
    · exact kept_sampleStep s
    · exact kept_exchangeStep s
    · exact kept_interpret s _ _ _
    · exact kept_delayStep s
    · exact kept_chunkStep s
    · exact kept_endOp s _
  · exact (kept_toPh s _).trans (kept_loadSpin _ _)
  · exact kept_awaitStep s _ _ _ _
  · exact kept_sendStep s
  · exact kept_awaitStep s _ _ _ _
  · exact (kept_transfer s _ _).trans (kept_headerReceived _)
  · exact kept_payloadStep s
  · exact kept_completeStep s
  · exact (kept_toPh s _).trans (kept_failWith _ _)

/-- A whole run. -/
theorem kept_runToDone (n : Nat) (s : State) : Kept s (runToDone n s) :=
  runToDone_induction (P := Kept s) (fun t _ h => h.trans (kept_tick t)) n (.refl s)

end Sys2Proof.Machine
end

