-- ==== Sys2Proof/Tests/Slice0.lean ====
section
/-! SUPPORT. Tests: the ill-formed terms each check refuses, one word of every row written out from the spec's tables, at
most two vectors of 95_test_vectors.md per instruction, and one witness per obligation that has hypotheses. Expected
values are the spec's. -/
namespace Sys2Proof.Tests
open Machine

set_option maxRecDepth 20000

/-! ### Well-formedness: each check refuses something -/

theorem test_wf_vectors : Config.vectors.valid = true := by decide

/-- R8, R9: one configuration per constraint, each breaking it. -/
theorem test_wf_cfg :
    ([{ Config.vectors with cap := 29 }, { Config.vectors with cap := 259 }, { Config.vectors with tCs := .fin 0 },
      { Config.vectors with tSrsp := .fin 0 }, { Config.vectors with pollMs := 0 },
      { Config.vectors with chunkMax := 0 }, { Config.vectors with chunkMax := 250 },
      { Config.vectors with afMaxData := 243 }, { Config.vectors with xcap := 0, xlenMax := 0 },
      { Config.vectors with xcap := 65537 }, { Config.vectors with xlenMax := 65536 },
      { Config.vectors with xcap := 100, xlenMax := 101 }].map Cfg.valid).any id = false := by decide

/-- R101: two equal ids; a notification id that is the response id of a request. -/
theorem test_wf_ids :
    ({ Config.ids with afDataStore := 0x2401#16 }.valid, { Config.ids with zdoLeaveInd := 0x6411#16 }.valid) =
      (false, false) := by decide

/-- R110: two equal codes; a code outside `0x31 .. 0x3B` on either side. -/
theorem test_wf_codes :
    ({ Config.codes with timeout := 0x31#8 }.valid, { Config.codes with timeout := 0x30#8 }.valid,
      { Config.codes with timeout := 0x3C#8 }.valid) = (false, false, false) := by decide

/-- R9, R100: one layout per schema check, each breaking it; then widths a field cannot have. -/
theorem test_wf_schema :
    ([{ Config.layouts with sendExt := { Config.layouts.sendExt with len := ⟨19, 2⟩ } },
      { Config.layouts with store := { Config.layouts.store with count := ⟨3, 1⟩ } },
      { Config.layouts with retrieve := { Config.layouts.retrieve with key := ⟨4, 4⟩ } },
      { Config.layouts with retrieved := { Config.layouts.retrieved with count := ⟨2, 1⟩ } },
      { Config.layouts with retrieved := { Config.layouts.retrieved with status := ⟨2, 1⟩ } },
      { Config.layouts with requestSrsp := { status := ⟨252, 1⟩ } },
      { Config.layouts with sendExtSrsp := { status := ⟨0, 0⟩ } },
      { Config.layouts with storeSrsp := { status := ⟨0, 2⟩ } },
      { Config.layouts with stateChange := { Config.layouts.stateChange with state := ⟨1, 1⟩ } },
      { Config.layouts with announce := { Config.layouts.announce with cap := ⟨13, 1⟩ } },
      { Config.layouts with leave := { Config.layouts.leave with mac := ⟨6, 8⟩ } },
      { Config.layouts with incoming := { Config.layouts.incoming with ts := ⟨14, 4⟩ } },
      { Config.layouts with incomingExt := { Config.layouts.incomingExt with dlen := ⟨26, 2⟩ } },
      { Config.layouts with confirm := { Config.layouts.confirm with tid := ⟨3, 1⟩ } },
      { Config.layouts with store := { Config.layouts.store with fixed := 6 } },
      { Config.layouts with retrieved := { Config.layouts.retrieved with fixed := 6 } },
      { Config.layouts with incoming := { Config.layouts.incoming with fixed := 253 } },
      { Config.layouts with announce := { Config.layouts.announce with addr1 := ⟨0, 3⟩ } },
      { Config.layouts with incoming := { Config.layouts.incoming with dlen := ⟨16, 0⟩ } }].map
      fun x => { Config.vectors with schema := x }.valid).any id = false := by decide

/-- R100, R106: schemas the block can hold: other offsets, other widths, a status byte elsewhere. -/
theorem test_wf_schema_other :
    ([{ Config.layouts with announce := { Config.layouts.announce with addr1 := ⟨2, 2⟩, addr2 := ⟨0, 2⟩ } },
      { Config.layouts with incoming := { Config.layouts.incoming with fixed := 18, dlen := ⟨16, 2⟩ } },
      { Config.layouts with requestSrsp := { status := ⟨251, 1⟩ } },
      { Config.layouts with confirm := { fixed := 3, ep := ⟨0, 1⟩, tid := ⟨1, 1⟩, status := ⟨2, 1⟩ } }].map
      fun x => { Config.vectors with schema := x }.valid).all id = true := by decide

/-- R91, R95, R102, R104: the lengths an instruction cannot have. -/
theorem test_wf_lengths :
    ([.afDataRequest 9, .afDataRequest 253, .afDataStore 2, .afDataStore 251, .afDataRequestSrsp 0,
      .afDataRequestExtSrsp 0, .afDataStoreSrsp 253, .afDataRetrieveSrsp 0, .afDataConfirm 0, .afIncomingMsg 253,
      .afIncomingMsgExt 0, .zdoStateChangeInd 0, .zdoEndDeviceAnnceInd 0, .zdoLeaveInd 253].map
      (WellFormed Config.vectors)).any id = false := by decide

/-! ### Decoding: words written out from R101 and R115 -/

theorem test_decode_hostop :
    ([0b00000001#8, 0b00000010#8, 0b00000011#8, 0b00000100#8, 0b00000101#8, 0b00010000#8, 0b00010001#8, 0b00010010#8,
      0b00010011#8].map fun v => decoded? (decode Config.vectors .hostop [v])) =
      [some .xchgRr, some .xchgPoll, some .rdyq, some .clsfy, some .waitn, some .sreq, some .afsend, some .afsendx,
        some .afretrx] := by decide

/-- H1: the boundary values of the reserved ranges. -/
theorem test_decode_reserved :
    ([0x00#8, 0x06#8, 0x0F#8, 0x14#8, 0xFF#8].map fun v => decoded? (decode Config.vectors .hostop [v])) =
      [none, none, none, none, none] := by decide

theorem test_decode_sent :
    ([[0b00000000#8, 0b00000000#8, 0b00000000#8], [0b00001101#8, 0b00100100#8, 0b00000001#8],
      [0b00010100#8, 0b00100100#8, 0b00000010#8], [0b01101101#8, 0b00100100#8, 0b00010001#8],
      [0b00000111#8, 0b00100100#8, 0b00010010#8], [0b00010011#8, 0b00100100#8, 0b00000010#8],
      [0b00000000#8, 0b00100001#8, 0b00000010#8]].map fun b => decoded? (decode Config.vectors .frameTx b)) =
      [some .poll, some (.afDataRequest 13), some .afDataRequestExt, some (.afDataStore 109), some .afDataRetrieve,
        none, none] := by decide

theorem test_decode_response :
    ([[0b00000001#8, 0b01100100#8, 0b00000001#8], [0b00000001#8, 0b01100100#8, 0b00000010#8],
      [0b00000001#8, 0b01100100#8, 0b00010001#8], [0b11111001#8, 0b01100100#8, 0b00010010#8],
      [0b00000000#8, 0b01100100#8, 0b00000001#8]].map fun b => decoded? (decode Config.vectors .frameRx b)) =
      [some (.afDataRequestSrsp 1), some (.afDataRequestExtSrsp 1), some (.afDataStoreSrsp 1),
        some (.afDataRetrieveSrsp 249), some (.noMessage 0x6401)] := by decide

theorem test_decode_notification :
    ([[0b00000011#8, 0b01000100#8, 0b10000000#8], [0b00010011#8, 0b01000100#8, 0b10000001#8],
      [0b00011011#8, 0b01000100#8, 0b10000010#8], [0b00000001#8, 0b01000101#8, 0b11000000#8],
      [0b00001101#8, 0b01000101#8, 0b11000001#8], [0b00001101#8, 0b01000101#8, 0b11001001#8],
      [0b00000000#8, 0b01000100#8, 0b10000000#8], [0b00000001#8, 0b01000110#8, 0b10000000#8]].map
      fun b => decoded? (decode Config.vectors .frameRx b)) =
      [some (.afDataConfirm 3), some (.afIncomingMsg 19), some (.afIncomingMsgExt 27), some (.zdoStateChangeInd 1),
        some (.zdoEndDeviceAnnceInd 13), some (.zdoLeaveInd 13), some (.noMessage 0x4480), none] := by decide

/-- The table's words: one byte for `CMD`, `FB[0] ++ FB[1] ++ FB[2]` for a header. -/
theorem test_table_words :
    ([decodeTableWord 8 0x12, decodeTableWord 24 0x0D2401, decodeTableWord 24 0x016401, decodeTableWord 24 0x000000,
      decodeTableWord 24 0x1B4482, decodeTableWord 24 0x006401]) =
      [some .afsendx, some (.afDataRequest 13), some (.afDataRequestSrsp 1), some .poll,
        some (.afIncomingMsgExt 27), some (.noMessage 0x6401)] := by decide

/-- F3, F4, F5, F8. -/
theorem test_ids_and_bytes :
    (resp 0x2401#16, resp 0x6401#16, resp 0xC000#16, resp 0xFFFF#16, le16 0x34#8 0x12#8, be16 0x24#8 0x01#8) =
      (0x6401#16, 0xA401#16, 0x0000#16, 0x3FFF#16, 0x1234#16, 0x2401#16) := by decide

/-! ### States -/

/-- Reset, with the Bus initialised (R284 a). -/
def idle : State := { State.reset with busUp := true }

/-- An idle block whose buffer starts with these bytes and whose Module will give these answers. -/
def with_ (fb : List Byte) (ready : List Bool) (rx : List Byte) : State :=
  { idle.fbPut 0 fb with ready := ready, rx := rx }

/-- A `CLSFY` that has just started on these bytes. -/
def classifying (fb : List Byte) : State := { idle.fbPut 0 fb with cmd := 0x04#8, busy := true }

/-- An operation that stands at `D_STATUS` with this response in `FB`. -/
def responded (cmd : Byte) (fb : List Byte) : State :=
  { idle.fbPut 0 fb with cmd := cmd, busy := true, ds := .dStatus, expv := true }

/-- What the Module answers while a header-only frame goes out. -/
def zeros : List Byte := [0x00#8, 0x00#8, 0x00#8]

/-! ### Vectors of 95_test_vectors.md -/

/-- V1. -/
theorem test_xchgRr_success :
    (nextState? (exec .xchgRr (with_ [0x00, 0x21, 0x02, 0xEE, 0xEE] [false, true, true, false]
      (zeros ++ [0x02, 0x61, 0x02, 0x00, 0x07])))).map (fun t => (t.res, t.fbBytes 0 5, t.exp, t.expv, t.tr)) =
    some (0x00, [0x02, 0x61, 0x02, 0x00, 0x07], 0x6102, true,
      [.setSel true, .rdRdy false, .rdRdy true, .xfer [0x00, 0x21, 0x02] zeros, .rdRdy true, .rdRdy false,
        .xfer zeros [0x02, 0x61, 0x02], .xfer [0xEE, 0xEE] [0x00, 0x07], .setSel false]) := by decide

/-- V3. -/
theorem test_xchgRr_no_response :
    (nextState? (exec .xchgRr (with_ [0x02, 0x21, 0x02, 0xAB, 0xCD] [true, true, true, true, true]
      [0x11, 0x22, 0x33, 0x44, 0x55]))).map (fun t => (t.res, t.fbBytes 0 5, t.sel, t.tr)) =
    some (Config.codes.srspTimeout, [0x00, 0x00, 0x00, 0x44, 0x55], false,
      [.setSel true, .rdRdy true, .xfer [0x02, 0x21, 0x02, 0xAB, 0xCD] [0x11, 0x22, 0x33, 0x44, 0x55], .rdRdy true,
        .rdRdy true, .rdRdy true, .rdRdy true, .busReset]) := by decide

/-- V2b. -/
theorem test_xchgPoll_last_sample :
    (nextState? (exec .xchgPoll (with_ [0xEE, 0xEE, 0xEE] [false, false, false, true, false]
      ([0xAA, 0xBB, 0xCC] ++ zeros)))).map (fun t => (t.res, t.fbBytes 0 3, t.expv, t.tr)) =
    some (0x00, [0x00, 0x00, 0x00], false,
      [.setSel true, .rdRdy false, .rdRdy false, .rdRdy false, .rdRdy true, .xfer zeros [0xAA, 0xBB, 0xCC],
        .rdRdy false, .xfer zeros zeros, .setSel false]) := by decide

/-- V6. -/
theorem test_xchgPoll_confirm :
    (nextState? (exec .xchgPoll (with_ [0xEE, 0xEE, 0xEE, 0xEE, 0xEE, 0xEE] [true, false]
      (zeros ++ [0x03, 0x44, 0x80, 0x00, 0xD7, 0x05])))).map (fun t => (t.res, t.fbBytes 0 6, t.tr)) =
    some (0x00, [0x03, 0x44, 0x80, 0x00, 0xD7, 0x05],
      [.setSel true, .rdRdy true, .xfer zeros zeros, .rdRdy false, .xfer zeros [0x03, 0x44, 0x80],
        .xfer [0xEE, 0xEE, 0xEE] [0x00, 0xD7, 0x05], .setSel false]) := by decide

/-- H2. -/
theorem test_rdyq_one :
    (nextState? (exec .rdyq (with_ [] [true] []))).map (fun t => (t.res, t.stat, t.tr)) =
    some (0x00, 0x06, [.rdRdy true]) := by decide

/-- H3. -/
theorem test_rdyq_zero :
    (nextState? (exec .rdyq { with_ [] [false] [] with msgw := true })).map (fun t => (t.res, t.stat, t.tr)) =
    some (0x00, 0x02, [.rdRdy false]) := by decide

/-- K5: the expected id comes before the notification ids. -/
theorem test_clsfy_expected :
    (nextState? (exec .clsfy { with_ [0x03, 0x44, 0x80, 0x00, 0xD7, 0x05] [] [] with exp := 0x4480, expv := true })).map
      (fun t => (t.res, t.k.kind, t.k.tid, t.tr)) = some (0x00, 0x01, 0x00, [.demux 0x01 0x4480]) := by decide

/-- K14. -/
theorem test_clsfy_unknown :
    (nextState? (exec .clsfy (with_ [0x01, 0x46, 0x80, 0x00] [] []))).map (fun t => (t.k.kind, t.k.cid, t.tr)) =
    some (0x0F, 0x4680, [.demux 0x0F 0x4680]) := by decide

/-- V10c: a decoy, an idle iteration, an empty poll, the match. -/
theorem test_waitn_through_decoys :
    (nextState? (exec .waitn { with_ (List.replicate 16 0xEE)
      [true, true, false, false, true, true, false, true, true, false]
      (zeros ++ [0x0D, 0x45, 0xC1, 0x34, 0x12, 0x34, 0x12, 0x08, 0x07, 0x06, 0x05, 0x04, 0x03, 0x02, 0x01, 0x8E] ++
        zeros ++ zeros ++ zeros ++ [0x03, 0x44, 0x80, 0xE9, 0xD7, 0x05]) with
      a := { Operands.zero with nid := 0x4480, tmo := 1 } })).map
      (fun t => ([t.res, t.k.kind, t.k.status], t.iter, t.fbBytes 0 6, t.k.mac, t.tr.drop 27)) =
    some ([0x00, 0x07, 0xE9], 7, [0x03, 0x44, 0x80, 0xE9, 0xD7, 0x05], 0x0102030405060708,
      [.xfer [0x34, 0x12, 0x34] [0xE9, 0xD7, 0x05], .setSel false, .demux 0x07 0x4480]) := by decide

/-- V10e: a transport failure of a poll ends the wait. -/
theorem test_waitn_poll_fails :
    (nextState? (exec .waitn { with_ [] [false, true, false, false, false, false] [] with
      a := { Operands.zero with nid := 0x4480, tmo := 1 } })).map (fun t => (t.res, t.iter, t.tr)) =
    some (Config.codes.chipSelectTimeout, 9,
      [.rdRdy false, .delay 100, .rdRdy true, .setSel true, .rdRdy false, .rdRdy false, .rdRdy false, .rdRdy false,
        .busReset]) := by decide

/-- V9d. -/
theorem test_sreq_status_offset :
    (nextState? (exec .sreq { with_ [0xEE, 0xEE, 0xEE, 0x34, 0x12, 0xEE] [true, false]
      ([0, 0, 0, 0, 0] ++ [0x03, 0x67, 0x0A, 0x0E, 0x00, 0x12]) with
      a := { Operands.zero with cid := 0x270A, len := 2, soff := 2, flags := 0x01 } })).map
      (fun t => (t.res, t.fbBytes 0 6, t.tr)) =
    some (0x12, [0x03, 0x67, 0x0A, 0x0E, 0x00, 0x12],
      [.setSel true, .rdRdy true, .xfer [0x02, 0x27, 0x0A, 0x34, 0x12] [0, 0, 0, 0, 0], .rdRdy false,
        .xfer zeros [0x03, 0x67, 0x0A], .xfer [0x00, 0x00, 0xEE] [0x0E, 0x00, 0x12], .setSel false]) := by decide

/-- V9b: the response is too short for its status byte. -/
theorem test_sreq_short_response :
    (nextState? (exec .sreq { with_ [] [true, false] (zeros ++ [0x00, 0x66, 0x00]) with
      a := { Operands.zero with cid := 0x2600, flags := 0x01 } })).map (fun t => (t.res, t.tr)) =
    some (Config.codes.incorrectSrsp,
      [.setSel true, .rdRdy true, .xfer [0x00, 0x26, 0x00] zeros, .rdRdy false, .xfer zeros [0x00, 0x66, 0x00],
        .setSel false, .busReset]) := by decide

/-- The operands of E7 and V7: short address 0x1234, endpoints 0xD7, cluster 7, three data bytes. -/
def scenario : Operands :=
  { Operands.zero with
    daddr := 0x1234, dep := 0xD7, sep := 0xD7, clus := 7, dptr := 0x100, dlen := 3, flags := 0x04, tmo := 2 }

/-- V7. -/
theorem test_afsend_confirmed :
    (nextState? (exec .afsend { (with_ [] [false, true, true, false, false, true, true, true, false]
      (List.replicate 16 0 ++ [0x01, 0x64, 0x01, 0x00] ++ zeros ++ [0x03, 0x44, 0x80, 0x00, 0xD7, 0x05])).xmPut 0x100
      [1, 2, 3] with a := scenario, tseq := 0x05 })).map
      (fun t => ([t.res, t.tseq, t.k.tid], t.iter, t.wid, t.tr.take 4, t.tr.drop 18)) =
    some ([0x00, 0x06, 0x05], 19, 0x4480,
      [.setSel true, .rdRdy false, .rdRdy true,
        .xfer [0x0D, 0x24, 0x01, 0x34, 0x12, 0xD7, 0xD7, 0x07, 0x00, 0x05, 0x00, 0x0F, 0x03, 0x01, 0x02, 0x03]
          (List.replicate 16 0)],
      [.xfer zeros [0x00, 0xD7, 0x05], .setSel false, .demux 0x07 0x4480]) := by decide

/-- V11b: the confirm's status is the result, and the diagnostics hook records it. -/
theorem test_afsend_confirm_status :
    (nextState? (exec .afsend { (with_ [] [true, false, true, true, false]
      (List.replicate 16 0 ++ [0x01, 0x64, 0x01, 0x00] ++ zeros ++ [0x03, 0x44, 0x80, 0xE9, 0xD7, 0x00])).xmPut 0x100
      [1, 2, 3] with a := scenario, verbose := true })).map (fun t => (t.res, t.tseq, t.tr.drop 14)) =
    some (0xE9, 0x01, [.setSel false, .demux 0x07 0x4480, .diag 0x11 0xE9]) := by decide

/-- A small block: 30 bytes of `FB`, 16 of `XM`, chunks of 2, two samples, two iterations a second. -/
def smallCfg : Cfg :=
  { Config.vectors with
    cap := 30, chunkMax := 2, afMaxData := 2, xcap := 16, xlenMax := 15, tCs := .fin 2, tSrsp := .fin 2, pollMs := 500 }

/-- V14d in small: 4 bytes are two full chunks, no short one, then the terminator at offset 4. -/
def smallSend : State :=
  { idle with
    cfg := smallCfg, autowait := false, xm := [(8, 0xA0), (9, 0xA1), (10, 0xA2), (11, 0xA3)]
    a := { Operands.zero with amode := 2, daddr := 0x1234, dep := 0xD7, sep := 0xD7, clus := 7, dptr := 8, dlen := 4, flags := 0x04 }
    ready := [true, false, true, false, true, false, true, false]
    rx := List.replicate 23 0 ++ [0x01, 0x64, 0x02, 0x00] ++ List.replicate 8 0 ++ [0x01, 0x64, 0x11, 0x00] ++
      List.replicate 8 0 ++ [0x01, 0x64, 0x11, 0x00] ++ List.replicate 6 0 ++ [0x01, 0x64, 0x11, 0x00] }

theorem test_afsendx_chunks :
    (nextState? (exec .afsendx smallSend)).map
      (fun t => ([t.res, t.tseq], t.xoff, [t.tr[2]?, t.tr[9]?, t.tr[16]?, t.tr[23]?], t.tr.length)) =
    some ([0x00, 0x01], 4,
      [some (.xfer [0x14, 0x24, 0x02, 0x02, 0x34, 0x12, 0, 0, 0, 0, 0, 0, 0xD7, 0, 0, 0xD7, 0x07, 0x00, 0x00, 0x00, 0x0F,
          0x04, 0x00] (List.replicate 23 0)),
        some (.xfer [0x05, 0x24, 0x11, 0x00, 0x00, 0x02, 0xA0, 0xA1] (List.replicate 8 0)),
        some (.xfer [0x05, 0x24, 0x11, 0x02, 0x00, 0x02, 0xA2, 0xA3] (List.replicate 8 0)),
        some (.xfer [0x03, 0x24, 0x11, 0x04, 0x00, 0x00] (List.replicate 6 0))], 28) := by decide

/-- V14e in small: the second store answers 0x1A; `XOFF` keeps its offset, no terminator, no reset. -/
theorem test_afsendx_failing_chunk :
    (nextState? (exec .afsendx { smallSend with
      rx := List.replicate 23 0 ++ [0x01, 0x64, 0x02, 0x00] ++ List.replicate 8 0 ++ [0x01, 0x64, 0x11, 0x00] ++
        List.replicate 8 0 ++ [0x01, 0x64, 0x11, 0x1A] })).map (fun t => (t.res, t.tseq, t.xoff, resetCount t.tr)) =
    some (0x1A, 0x01, 2, 0) := by decide

/-- V13 in small: three bytes come back in chunks of 2 and 1, then the terminating retrieve. -/
def smallReceive : State :=
  { idle with
    cfg := smallCfg, xm := [(4, 0xEE), (7, 0xEE), (8, 0xEE)]
    a := { Operands.zero with key := 0x12345678, dptr := 5, dlen := 3, flags := 0x04 }
    ready := [true, false, true, false, true, false]
    rx := List.replicate 10 0 ++ [0x04, 0x64, 0x12, 0x00, 0x02, 0xB0, 0xB1] ++ List.replicate 10 0 ++
      [0x03, 0x64, 0x12, 0x00, 0x01, 0xB2] ++ List.replicate 10 0 ++ [0x02, 0x64, 0x12, 0x00, 0x00] }

theorem test_afretrx_chunks :
    (nextState? (exec .afretrx smallReceive)).map
      (fun t => (t.res, t.xoff, t.xmBytes 4 5, [t.tr[2]?, t.tr[9]?, t.tr[16]?])) =
    some (0x00, 3, [0xEE, 0xB0, 0xB1, 0xB2, 0xEE],
      [some (.xfer [0x07, 0x24, 0x12, 0x78, 0x56, 0x34, 0x12, 0x00, 0x00, 0x02] (List.replicate 10 0)),
        some (.xfer [0x07, 0x24, 0x12, 0x78, 0x56, 0x34, 0x12, 0x02, 0x00, 0x01] (List.replicate 10 0)),
        some (.xfer [0x07, 0x24, 0x12, 0x78, 0x56, 0x34, 0x12, 0x03, 0x00, 0x00] (List.replicate 10 0))]) := by decide

/-- V14c. -/
theorem test_afretrx_empty :
    (nextState? (exec .afretrx { with_ [] [true, false] (List.replicate 10 0 ++ [0x02, 0x64, 0x12, 0x00, 0x00]) with
      a := { Operands.zero with key := 1, flags := 0x04 } })).map (fun t => (t.res, t.xoff, t.xm, t.tr.take 3)) =
    some (0x00, 0, [],
      [.setSel true, .rdRdy true, .xfer [0x07, 0x24, 0x12, 0x01, 0, 0, 0, 0, 0, 0] (List.replicate 10 0)]) := by decide

/-- F6, R136. -/
theorem test_poll_frame :
    (nextState? (exec .poll (with_ [0x03, 0x44, 0x80, 0x07] [] []))).map (fun t => (t.fbBytes 0 4, t.sel, t.tr)) =
    some ([0x00, 0x00, 0x00, 0x07], true, [.setSel true]) := by decide

/-- E7: the source's own scenario. -/
theorem test_afDataRequest_scenario :
    (nextState? (exec (.afDataRequest 13) { idle.xmPut 0x100 [1, 2, 3] with a := scenario, tseq := 0xFF })).map
      (fun t => (t.fbBytes 0 16, t.tseq)) =
    some ([13, 0x24, 0x01, 0x34, 0x12, 0xD7, 0xD7, 0x07, 0x00, 0xFF, 0x00, 0x0F, 0x03, 0x01, 0x02, 0x03], 0x00) := by
  decide

/-- V12, frame 1. -/
theorem test_afDataRequestExt_begin :
    (nextState? (exec .afDataRequestExt { idle with a := { scenario with amode := 2, dlen := 600 }, tseq := 0x2A })).map
      (fun t => (t.fbBytes 0 23, t.tseq)) =
    some ([0x14, 0x24, 0x02, 0x02, 0x34, 0x12, 0, 0, 0, 0, 0, 0, 0xD7, 0x00, 0x00, 0xD7, 0x07, 0x00, 0x2A, 0x00, 0x0F, 0x58,
      0x02], 0x2B) := by decide

/-- V12, the head of frame 4 (offset 494), with four data bytes. -/
theorem test_afDataStore_chunk :
    (nextState? (exec (.afDataStore 7) { idle.xmPut 0x3EE [0x85, 0x8C, 0x93, 0x9A] with a := { scenario with dptr := 0x200, dlen := 600 }, xoff := 494 })).map
      (fun t => t.fbBytes 0 10) = some [0x07, 0x24, 0x11, 0xEE, 0x01, 0x04, 0x85, 0x8C, 0x93, 0x9A] := by decide

/-- V12, frame 5: the terminator. -/
theorem test_afDataStore_terminator :
    (nextState? (exec (.afDataStore 3) { idle with a := { scenario with dlen := 600 }, xoff := 600 })).map
      (fun t => t.fbBytes 0 6) = some [0x03, 0x24, 0x11, 0x58, 0x02, 0x00] := by decide

/-- V13, requests 3 and 4. -/
theorem test_afDataRetrieve_requests :
    ((nextState? (exec .afDataRetrieve { idle with a := { scenario with key := 0x12345678, dlen := 600 }, xoff := 494 })).map
        (fun t => t.fbBytes 0 10),
      (nextState? (exec .afDataRetrieve { idle with a := { scenario with key := 0x12345678, dlen := 600 }, xoff := 600 })).map
        (fun t => t.fbBytes 0 10)) =
    (some [0x07, 0x24, 0x12, 0x78, 0x56, 0x34, 0x12, 0xEE, 0x01, 0x6A],
      some [0x07, 0x24, 0x12, 0x78, 0x56, 0x34, 0x12, 0x58, 0x02, 0x00]) := by decide

/-- V11c: the response's status 0x10 ends the send, no wait. -/
theorem test_afDataRequestSrsp_status :
    (nextState? (exec (.afDataRequestSrsp 1) (responded 0x11 [0x01, 0x64, 0x01, 0x10]))).map
      (fun t => (t.res, t.done, t.ds, t.tr)) = some (0x10, true, .dIdle, []) := by decide

/-- R163 with another schema: the status byte stands at offset 1. -/
theorem test_afDataRequestSrsp_other_offset :
    (nextState? (exec (.afDataRequestSrsp 2) { responded 0x11 [0x02, 0x64, 0x01, 0x00, 0x10] with
      cfg := { Config.vectors with schema := { Config.layouts with requestSrsp := { status := ⟨1, 1⟩ } } } })).map
      (fun t => (t.res, t.done, t.tr)) = some (0x10, true, []) := by decide

/-- R190: the begin frame's good status opens the chunk loop. -/
theorem test_afDataRequestExtSrsp_opens :
    (nextState? (exec (.afDataRequestExtSrsp 1) { responded 0x12 [0x01, 0x64, 0x02, 0x00] with xoff := 9 })).map
      (fun t => (t.busy, t.ds, t.xoff)) = some (true, .dChunk, 0) := by decide

/-- V14e: the status of the second store. -/
theorem test_afDataStoreSrsp_status :
    (nextState? (exec (.afDataStoreSrsp 1) { responded 0x12 [0x01, 0x64, 0x11, 0x1A] with begun := true, xoff := 247 })).map
      (fun t => (t.res, t.done, t.xoff, t.tr)) = some (0x1A, true, 247, []) := by decide

/-- V14a: 100 bytes came where 247 were asked. -/
theorem test_afDataRetrieveSrsp_wrong_size :
    (nextState? (exec (.afDataRetrieveSrsp 0x66) { responded 0x13 [0x66, 0x64, 0x12, 0x00, 0x64] with a := { Operands.zero with dlen := 600 } })).map
      (fun t => (t.res, t.xoff, t.xm, t.tr)) = some (Config.codes.incorrectSrsp, 0, [], [.busReset]) := by decide

/-- D21: one byte asked, its count echoed, but the frame is one byte longer than `2 + n`. -/
theorem test_afDataRetrieveSrsp_too_long :
    (nextState? (exec (.afDataRetrieveSrsp 0x04) { responded 0x13 [0x04, 0x64, 0x12, 0x00, 0x01, 0xB0, 0xB1] with a := { Operands.zero with dlen := 1 } })).map
      (fun t => (t.res, t.xoff, t.xm, t.tr)) = some (Config.codes.incorrectSrsp, 0, [], [.busReset]) := by decide

/-- K2: length 0 wins over the id. -/
theorem test_noMessage_any_id :
    (nextState? (exec (.noMessage 0x4480) (classifying [0x00, 0x44, 0x80, 0x00, 0xD7, 0x05]))).map
      (fun t => (t.k.kind, t.k.len, t.k.cid, t.k.tid, t.tr)) =
    some (0x00, 0x00, 0x4480, 0x00, [.demux 0x00 0x4480]) := by decide

/-- R210's example. -/
theorem test_afDataConfirm_fields :
    (nextState? (exec (.afDataConfirm 3) (classifying [0x03, 0x44, 0x80, 0x00, 0xD7, 0x05]))).map
      (fun t => (t.k.kind, t.k.kflags, t.k.status, t.k.ep, t.k.tid)) = some (0x07, 0x00, 0x00, 0xD7, 0x05) := by decide

/-- K13: short by one byte. -/
theorem test_afDataConfirm_short :
    (nextState? (exec (.afDataConfirm 2) (classifying [0x02, 0x44, 0x80, 0xE9, 0xD7]))).map
      (fun t => (t.k.kind, t.k.kflags, t.k.status, t.k.ep)) = some (0x07, 0x01, 0xE9, 0xD7) := by decide

/-- The bytes of K9 behind the length. -/
def k9 : List Byte :=
  [0x44, 0x81, 0x00, 0x00, 0x07, 0x00, 0x34, 0x12, 0xD7, 0xD7, 0x00, 0x50, 0x00, 0x78, 0x56, 0x34, 0x12, 0x05, 0x02,
    0xAA, 0xBB]

/-- K9. -/
theorem test_afIncomingMsg_fields :
    (nextState? (exec (.afIncomingMsg 0x13) (classifying (0x13 :: k9)))).map
      (fun t => (t.k.kind, t.k.kflags, t.k.clus, t.k.addr1, t.k.lqi, t.k.ts, t.k.tseq, t.k.dlen, t.k.doff)) =
    some (0x05, 0x00, 0x0007, 0x1234, 0x50, 0x12345678, 0x05, 2, 20) := by decide

/-- K10: one data byte is missing. -/
theorem test_afIncomingMsg_short :
    (nextState? (exec (.afIncomingMsg 0x12) (classifying (0x12 :: k9)))).map (fun t => (t.k.kflags, t.k.dlen)) =
    some (0x01, 2) := by decide

/-- The bytes of K11 and K12 between the length and the data length. -/
def k11 : List Byte :=
  [0x44, 0x82, 0x00, 0x00, 0x07, 0x00, 0x02, 0x34, 0x12, 0, 0, 0, 0, 0, 0, 0xD7, 0xCD, 0xAB, 0xD7, 0x00, 0x50, 0x00,
    0x78, 0x56, 0x34, 0x12, 0x05]

/-- K11. -/
theorem test_afIncomingMsgExt_too_long :
    (nextState? (exec (.afIncomingMsgExt 0x1B) (classifying (0x1B :: k11 ++ [0x2C, 0x01])))).map
      (fun t => (t.k.kind, t.k.kflags, t.k.samode, t.k.mac, t.k.span, t.k.ts, t.k.dlen, t.k.doff)) =
    some (0x06, 0x00, 0x02, 0x1234, 0xABCD, 0x12345678, 300, 30) := by decide

/-- K12. -/
theorem test_afIncomingMsgExt_inline :
    (nextState? (exec (.afIncomingMsgExt 0x1D) (classifying (0x1D :: k11 ++ [0x02, 0x00, 0xAA, 0xBB])))).map
      (fun t => (t.k.kflags, t.k.len, t.k.dlen)) = some (0x02, 29, 2) := by decide

/-- K6. -/
theorem test_zdoStateChangeInd_state :
    (nextState? (exec (.zdoStateChangeInd 1) (classifying [0x01, 0x45, 0xC0, 0x09]))).map
      (fun t => (t.k.kind, t.k.state, t.tr)) = some (0x02, 0x09, [.demux 0x02 0x45C0]) := by decide

/-- K7. -/
theorem test_zdoEndDeviceAnnceInd_fields :
    (nextState? (exec (.zdoEndDeviceAnnceInd 13) (classifying
      [0x0D, 0x45, 0xC1, 0x34, 0x12, 0x34, 0x12, 0x08, 0x07, 0x06, 0x05, 0x04, 0x03, 0x02, 0x01, 0x8E]))).map
      (fun t => (t.k.kind, t.k.addr1, t.k.addr2, t.k.mac, t.k.cap)) =
    some (0x03, 0x1234, 0x1234, 0x0102030405060708, 0x8E) := by decide

/-- K8. -/
theorem test_zdoLeaveInd_fields :
    (nextState? (exec (.zdoLeaveInd 13) (classifying [0x0D, 0x45, 0xC9, 0xCD, 0xAB, 1, 2, 3, 4, 5, 6, 7, 8, 0, 0, 1]))).map
      (fun t => (t.k.kind, t.k.addr1, t.k.mac, t.k.lvreq, t.k.lvrem, t.k.lvrej)) =
    some (0x04, 0xABCD, 0x0807060504030201, 0, 0, 1) := by decide

/-- H1: a reserved opcode, through the Host port. -/
theorem test_reserved_opcode :
    (nextState? (step { idle with host := [.op 0x14] })).map (fun t => (t.res, t.stat, t.cmd, t.tr)) =
    some (Config.codes.invalidParameter, 0x02, 0x14, []) := by decide

/-- A word of each format, placed after reset, is what the next step runs. -/
theorem test_placed_words_run :
    ((nextState? (step (State.reset.withFetchWord 8 0x03))).map (fun t => (t.cmd, t.done, t.draws)),
      (nextState? (step (State.reset.withFetchWord 24 0x0A2401))).map (fun t => (t.fbBytes 0 3, t.ds, t.tseq)),
      (nextState? (step (State.reset.withFetchWord 24 0x0145C0))).map (fun t => (t.k.kind, t.k.cid, t.done))) =
    (some (0x03, true, 1), some ([0x0A, 0x24, 0x01], .dExchange, 1), some (0x02, 0x45C0, true)) := by decide

/-! ### Witnesses: concrete states and operands that meet the hypotheses of each obligation -/

/-- A running operation under the small configuration, its Host waiting. -/
def running (cmd : Byte) (ds : DState) (fb : List Byte) : State :=
  { idle.fbPut 0 fb with cmd := cmd, busy := true, ds := ds, hostWaits := true }

theorem witness_ResetValues : State.reset = State.resetWith Config.vectors := rfl

theorem witness_StepKeepsCoherent :
    State.reset.Coherent ∧ (nextState? (step State.reset)).isSome = true ∧
      (running 0x02 .dExchange []).Coherent ∧ (nextState? (step (running 0x02 .dExchange []))).isSome = true := by decide

theorem witness_DecodeEncode :
    Config.vectors.valid = true ∧
      ([.afsend, .poll, .noMessage 0, .afDataRequest 10, .afDataRequest 252, .afDataRequestExt, .afDataStore 3,
        .afDataStore 250, .afDataRetrieve, .afDataRequestSrsp 1, .zdoLeaveInd 252].map
        (WellFormed Config.vectors)).all id = true := by decide

theorem witness_EncodeDecode :
    decode Config.vectors .frameTx [0x14#8, 0x24#8, 0x02#8, 0xAA#8] = .ok (.afDataRequestExt, [0xAA#8]) := rfl

theorem witness_StepRunsOperation :
    idle.cfg.valid = true ∧ idle.busy = false ∧ ({ idle with host := [.op 0x13] } : State).host = .op 0x13 :: [] ∧
      decoded? (decode idle.cfg .hostop [0x13]) = some .afretrx := by decide

theorem witness_StepRunsFrame :
    let build : State := running 0x11 .dBuild [0x0A, 0x24, 0x01]
    let status : State := running 0x11 .dStatus [0x01, 0x64, 0x01, 0x00]
    let wait : State := running 0x05 .dWaitClassify [0x01, 0x45, 0xC0, 0x09]
    let clsfy : State := running 0x04 .dIdle [0x00, 0x44, 0x80]
    let poll : State := running 0x02 .dExchange []
    ([build, status, wait, clsfy, poll].all fun s =>
      s.cfg.valid && s.busy && s.ph == .idle && s.hostWaits && s.host.head? != some .blockReset) = true ∧
    decoded? (decode build.cfg .frameTx (build.fbBytes 0 3)) = some (.afDataRequest 10) ∧
    decoded? (decode status.cfg .frameRx (status.fbBytes 0 3)) = some (.afDataRequestSrsp 1) ∧
    decoded? (decode wait.cfg .frameRx (wait.fbBytes 0 3)) = some (.zdoStateChangeInd 1) ∧
    decoded? (decode clsfy.cfg .frameRx (clsfy.fbBytes 0 3)) = some (.noMessage 0x4480) := by decide

theorem witness_FrameMoveIsTick :
    (running 0x11 .dBuild [0x0A, 0x24, 0x01]).cfg.valid = true ∧ (running 0x11 .dBuild [0x0A, 0x24, 0x01]).busy = true :=
  by decide

theorem witness_ReservedOpcode :
    idle.cfg.valid = true ∧ idle.busy = false ∧ idle.ph = .idle ∧
      ([0x00#8, 0x06#8, 0x0F#8, 0x14#8, 0xFF#8].all fun v =>
        v.toNat == 0x00 || (decide (0x06 ≤ v.toNat) && decide (v.toNat ≤ 0x0F)) || decide (0x14 ≤ v.toNat)) = true := by
  decide

theorem witness_HostFaults :
    (running 0x05 .dWaitDelay []).busy = true ∧
      (State.reset.busy = false ∧ State.reset.cfg.valid = true ∧ State.reset.busUp = false) ∧
      (State.resetWith { Config.vectors with cap := 29 }).cfg.valid = false := by decide

/-- Two rows of the register map, its reserved numbers, the read-only ones; a `CMD` write; both ends of both memories. -/
theorem witness_RegisterPort :
    idle.busy = false ∧ ([(0x02, 0), (0x05, 1), (0x74, 0)].all fun x => decide (x ∈ idle.registerMap)) = true ∧
      ([0x09, 0x0F, 0x11, 0x26, 0x29, 0x31, 0x3F, 0x43, 0x75].all fun reg =>
        decide (reg ∉ idle.registerMap.map Prod.fst)) = true ∧
      ([0x01, 0x04, 0x09, 0x30, 0x40, 0x74].all fun reg => decide (reg ∉ writableRegisters)) = true ∧
      (idle.cfg.valid = true ∧ idle.busUp = true) ∧
      (254 + [0xAA#8].length ≤ idle.cfg.cap ∧ 254 < idle.cfg.cap ∧ idle.cfg.cap < 255 + [0xAA#8].length) ∧
      (65535 + [0xAA#8].length ≤ idle.cfg.xcap ∧ 65535 < idle.cfg.xcap ∧ idle.cfg.xcap ≤ 65536) := by decide

/-- R39, R35, R36: three numbers read and two written, against the tables' rows. -/
theorem test_register_rows :
    let s : State := { idle with a := { Operands.zero with nid := 0x4480, key := 0x12345678 }, iter := 0x10005, k := { ClassOut.zero with lqi := 0x50, mac := 0x0102030405060708 } }
    (s.readReg 0x0E, s.readReg 0x24, s.readReg 0x2C, s.readReg 0x61, s.readReg 0x50) =
        (0x4480, 0x12345678, 5, 0x50, 0x0102030405060708) ∧
      ((s.writeReg 0x1E 0x12345).a.dptr, (s.writeReg 0x0C 0x102).a.soff) = (0x2345, 0x02) := by decide

theorem witness_PhaseDiagram :
    (let s : State := { with_ [] [] [0x01, 0x64, 0x01, 0x00] with
       busy := true, ph := .rxHeader, ds := .dExchange, sel := true }
     s.ph = .rxHeader ∧ s.tick.ph = .rxPayload) ∧
    (let s : State := { with_ [] [] [0x00, 0x64, 0x01] with
       busy := true, ph := .rxHeader, ds := .dExchange, sel := true }
     s.ph = .rxHeader ∧ s.tick.ph = .complete) := by decide

/-- A wait; and `AFRETRX` at `D_VALIDATE`, which R174 sends to `D_BUILD`. -/
theorem witness_DispatcherDiagram :
    (running 0x05 .dWaitSample []).Coherent ∧ (running 0x05 .dWaitSample []).busy = true ∧
      (let s : State := { running 0x13 .dValidate [] with a := { Operands.zero with flags := 0x04 } }
       s.Coherent ∧ s.tick.ds = .dBuild) := by decide

/-- Every instruction answers a next state at one of these two states, the first of them at rest. -/
theorem witness_frames :
    idle.Quiet ∧
      ([Instr.xchgRr, .xchgPoll, .rdyq, .clsfy, .waitn, .sreq, .afsend, .afsendx, .afretrx].all fun i =>
        (nextState? (exec i idle)).isSome) = true ∧
      ([Instr.poll, .noMessage 0, .afDataRequest 10, .afDataRequestExt, .afDataStore 3, .afDataRetrieve,
        .afDataRequestSrsp 1, .afDataRequestExtSrsp 1, .afDataStoreSrsp 1, .afDataRetrieveSrsp 2, .afDataConfirm 3,
        .afIncomingMsg 17, .afIncomingMsgExt 27, .zdoStateChangeInd 1, .zdoEndDeviceAnnceInd 13, .zdoLeaveInd 13].all
        fun i => (nextState? (exec i (running 0x13 .dStatus [0x02, 0x64, 0x12, 0x00, 0x00]))).isSome) = true := by
  decide

/-- `ClassifierFrame`'s clauses with a premise on a flag. -/
theorem witness_ClassifierFrame :
    idle.waitFlag = false ∧ ({ idle with autowait := false } : State).autowait = false ∧
      ({ idle with autowait := false } : State).Quiet := by decide

/-- `SequenceFrame`'s two cases: validation passes, or does not. -/
theorem witness_SequenceFrame :
    smallSend.Quiet ∧ smallSend.afsendxCheck = none ∧ smallSend.afsendCheck = some .invalidLength ∧
      ({ idle with a := scenario } : State).afsendCheck = none := by decide

theorem witness_OperationsComplete : idle.Startable ∧ Cfg.Bounded idle.cfg ∧ Instr.format .afsendx = .hostop := by decide

theorem witness_UnboundedWaitHangs :
    (let s : State := { running 0x02 .dExchange [] with
       ph := .awaitingReady, cfg := { Config.vectors with tCs := .inf }, ready := [false, false, true] }
     s.busy = true ∧ s.ph = .awaitingReady ∧ s.cfg.tCs = .inf ∧ s.ready = List.replicate 2 false ++ [true]) ∧
    (let s : State := { running 0x02 .dExchange [] with
       ph := .awaitingReadyRelease, cfg := { Config.vectors with tSrsp := .inf }, ready := [true, true, false] }
     s.busy = true ∧ s.ph = .awaitingReadyRelease ∧ s.cfg.tSrsp = .inf ∧
       s.ready = List.replicate 2 true ++ [false]) := by decide

theorem witness_ExchangeResetsOnce :
    (with_ [] [true, false] (zeros ++ [0x00, 0x40, 0x00])).Startable ∧
      ((nextState? (exec .xchgPoll (with_ [] [true, false] (zeros ++ zeros)))).map fun t => (t.busy, t.res)) =
        some (false, 0x00) ∧
      ((nextState? (exec .xchgPoll (with_ [] [false, false, false, false] []))).map fun t => (t.busy, t.res)) =
        some (false, Config.codes.chipSelectTimeout) := by decide

/-- The reply of V1, and one at both bounds with an empty payload. -/
def reply (id : Word16) (p q : Nat) (junk : Nat) (pay : List Byte) : Reply :=
  { p := p, q := q, junk := List.replicate junk 0x00#8, id := id, pay := pay }

theorem witness_RequestResponseSucceeds :
    ∀ r ∈ [reply 0x6102 1 1 3 [0x00, 0x07], reply 0x6102 3 3 3 []],
      let s : State := with_ [0x00, 0x21, 0x02] (r.levels ++ [true]) (r.bytes ++ [0x55])
      s.Startable ∧ s.frameLen ≤ s.cfg.nmax ∧ r.Fits s.cfg s.frameLen ∧ r.id = resp s.frameCid ∧
        s.ready = r.levels ++ [true] ∧ s.rx = r.bytes ++ [0x55] := by decide

theorem witness_PollSucceeds :
    let r : Reply := reply 0x4480 3 0 3 [0x00, 0xD7, 0x05]
    let s : State := with_ [] r.levels r.bytes
    s.Startable ∧ r.Fits s.cfg 0 ∧ s.ready = r.levels ++ [] ∧ s.rx = r.bytes ++ [] := by decide

/-- Each operation that has an exchange opens one: the number of bytes it sends. -/
theorem witness_opening :
    ([((with_ [0x02, 0x21, 0x02, 0xAB, 0xCD] [] []).opening .xchgRr).map fun x => x.1.length,
      (idle.opening .xchgPoll).map fun x => x.1.length,
      (({ idle with a := { Operands.zero with len := 2 } } : State).opening .sreq).map fun x => x.1.length,
      (({ idle with a := scenario } : State).opening .afsend).map fun x => x.1.length,
      (smallSend.opening .afsendx).map fun x => x.1.length,
      (smallReceive.opening .afretrx).map fun x => x.1.length]) =
      [some 5, some 3, some 5, some 16, some 23, some 10] := by decide

/-- Running operations that are about to start an exchange: a chunk of `AFSENDX`, a poll of a wait. -/
def midSend : State := { smallSend with cmd := 0x12, busy := true, ds := .dExchange, begun := true, fb := [(0, 3), (1, 0x24), (2, 0x11)] }
def midWait : State := { idle with cmd := 0x11, busy := true, ds := .dWaitPoll }

theorem witness_starting :
    (midSend.starting.map fun x => x.1.length) = some 6 ∧ midSend.cfg.valid = true ∧
      (midWait.starting.map fun x => x.1) = some zeros ∧ midWait.cfg.valid = true ∧ midSend.cmd ≠ 0x02#8 ∧
      midSend.ds = .dExchange := by decide

theorem witness_ChipSelectTimeout :
    (let s : State := with_ [0x00, 0x21, 0x02] [false, false, false, false] []
     s.Startable ∧ s.cfg.tCs = .fin 4 ∧ s.ready = List.replicate 4 false ++ [] ∧ (s.opening .xchgRr).isSome = true) ∧
    (let s : State := { midWait with ready := [false, false, false, false] }
     s.cfg.valid = true ∧ s.starting.isSome = true ∧ s.cfg.tCs = .fin 4 ∧ s.ready = List.replicate 4 false ++ []) := by
  decide

theorem witness_ResponseTimeout :
    (let s : State := with_ [0x02, 0x21, 0x02, 0xAB, 0xCD] [true, true, true, true, true] [0x11, 0x22, 0x33, 0x44, 0x55]
     Bound.allows s.cfg.tCs 0 = true ∧ s.cfg.tSrsp = .fin 4 ∧ s.rx = [0x11, 0x22, 0x33, 0x44, 0x55] ++ [] ∧
       s.ready = List.replicate 0 false ++ [true] ++ List.replicate 4 true ++ [] ∧ s.Startable ∧
       (s.opening .xchgRr).map (fun x => x.1.length) = some 5) ∧
    (let s : State := { midWait with ready := [true, true, true, true, true], rx := zeros }
     s.rx = zeros ++ [] ∧ s.ready = List.replicate 0 false ++ [true] ++ List.replicate 4 true ++ [] ∧
       s.starting.map (fun x => x.1.length) = some 3 ∧ s.cfg.valid = true) := by decide

/-- V5b and V5a; `NMAX = 252`. -/
theorem witness_OversizeFrame :
    (let s : State := with_ [0xFD, 0x21, 0x02] [] []; s.Startable ∧ s.cfg.nmax < s.frameLen) ∧
    (let s : State := with_ [0x00, 0x21, 0x02] (readyLevels 0 0) (zeros ++ [0xFD, 0x61, 0x02])
     s.Startable ∧ Bound.allows s.cfg.tCs 0 = true ∧ Bound.allows s.cfg.tSrsp 0 = true ∧
       s.cfg.nmax < (0xFD : Byte).toNat ∧ s.rx = zeros ++ [0xFD, 0x61, 0x02] ++ [] ∧
       s.ready = readyLevels 0 0 ++ [] ∧ (s.opening .xchgRr).map (fun x => x.1.length) = some zeros.length) ∧
    (let s : State := { midWait with ready := readyLevels 0 0, rx := zeros ++ [0xFD, 0x44, 0x80] }
     s.rx = zeros ++ [0xFD, 0x44, 0x80] ++ [] ∧ s.starting.map (fun x => x.1.length) = some zeros.length) := by decide

/-- V4; and a chunk of `AFSENDX` that is answered with another id. -/
theorem witness_WrongResponseId :
    (let r : Reply := reply 0x4480 0 0 3 [0x00, 0xD7, 0x05]
     let s : State := with_ [0x00, 0x21, 0x02] r.levels r.bytes
     s.Startable ∧ r.Fits s.cfg (3 - 3) ∧ s.ready = r.levels ++ [] ∧ s.rx = r.bytes ++ [] ∧
       (s.opening .xchgRr).map (fun x => (x.1.length, decide (r.id ≠ x.2.exp))) = some (3, true)) ∧
    (let r : Reply := reply 0x6402 0 0 6 [0x00]
     r.Fits midSend.cfg (6 - 3) ∧
       midSend.starting.map (fun x => (x.1.length, decide (r.id ≠ x.2.exp))) = some (6, true)) := by decide

theorem witness_ReadyQuery :
    (idle.Quiet ∧ idle.cfg.valid = true ∧ idle.ready = []) ∧
      (with_ [] [true] []).Quiet ∧ (with_ [] [true] []).ready = true :: [] := by decide

/-- V8, V9e, V14b: one state per clause, at the first value the check refuses. -/
theorem witness_ValidationRefuses :
    let with_ops := fun a : Operands => { idle with a := a }
    (with_ops scenario).Startable ∧
    Config.vectors.nmax < (253 : Byte).toNat ∧
    (with_ops { scenario with flags := 0 }).dval = false ∧
    ((with_ops { scenario with clus := 0 }).dval = true ∧ (with_ops { scenario with clus := 0 }).a.clus = 0) ∧
    (let s : State := with_ops { scenario with dlen := 243 }; s.dval = true ∧ s.a.clus ≠ 0 ∧ s.cfg.afMaxData < s.a.dlen.toNat) ∧
    (let s : State := with_ops { scenario with dlen := 2, dptr := 0xFFFF }
     s.dval = true ∧ s.a.dlen.toNat ≤ s.cfg.afMaxData ∧ s.cfg.xcap < s.a.dptr.toNat + s.a.dlen.toNat) ∧
    (let s : State := with_ops { scenario with dlen := 242 }; s.dval = true ∧ s.a.dlen.toNat ≤ s.cfg.afMaxData) ∧
    (let s : State := with_ops { scenario with dlen := 243, amode := 0x04 }
     s.cfg.afMaxData < s.a.dlen.toNat ∧ s.a.dlen.toNat ≤ s.cfg.xlenMax ∧ s.a.amode ∉ s.cfg.amodes) ∧
    (let s : State := with_ops { scenario with dlen := 243, amode := 0x02, dptr := 0xFF10 }
     s.a.amode ∈ s.cfg.amodes ∧ s.cfg.xcap < s.a.dptr.toNat + s.a.dlen.toNat) ∧
    (let s : State := { smallReceive with a := { smallReceive.a with dlen := 16, dptr := 0 } }
     s.Startable ∧ s.dval = true ∧ s.cfg.xlenMax < s.a.dlen.toNat) ∧
    (let s : State := { smallReceive with a := { smallReceive.a with dlen := 15, dptr := 2 } }
     s.dval = true ∧ s.a.dlen.toNat ≤ s.cfg.xlenMax ∧ s.cfg.xcap < s.a.dptr.toNat + s.a.dlen.toNat) := by decide

/-- V9a, V9b, V9c: the status byte there, not there, not asked for. -/
theorem witness_GenericRequest :
    ∀ x ∈ [((0x01 : Byte), [(0xB8 : Byte)], (0xB8 : Byte), ([] : List Event)),
        (0x03, [], Config.codes.incorrectSrsp, [.busReset]), (0x00, [], 0x00, [])],
      let r : Reply := reply 0x6600 0 0 3 x.2.1
      let s : State := { with_ [] r.levels r.bytes with a := { Operands.zero with cid := 0x2600, flags := x.1 } }
      s.Startable ∧ s.a.len.toNat ≤ s.cfg.nmax ∧ r.Fits s.cfg s.a.len.toNat ∧ r.id = resp s.a.cid ∧
        (s.waitFlag = false ∨ x.2.2.1 ≠ 0x00#8) ∧
        (x.2.2.1, x.2.2.2) =
          (if s.sval = true then statusResult s.cfg r.pay s.a.soff.toNat else (0x00#8, [])) := by decide

/-- V11a, and V11c with `AUTOWAIT = 1`. -/
theorem witness_SendData :
    ∀ x ∈ [(false, (0x00 : Byte)), (true, 0x10)],
      let r : Reply := reply 0x6401 0 0 16 [x.2]
      let s : State := { with_ [] r.levels r.bytes with a := scenario, autowait := x.1 }
      s.Startable ∧ s.dval = true ∧ s.a.clus ≠ 0#16 ∧ s.a.dlen.toNat ≤ s.cfg.afMaxData ∧
        s.a.dptr.toNat + s.a.dlen.toNat ≤ s.cfg.xcap ∧ r.Fits s.cfg (10 + s.a.dlen.toNat) ∧
        r.id = resp s.cfg.cid.afDataRequest ∧
        (s.autowait = false ∨ ¬ r.Good s.cfg.schema.requestSrsp.status.off) ∧
        (x.2, ([] : List Event)) = statusResult s.cfg r.pay s.cfg.schema.requestSrsp.status.off := by decide

/-- A decoy, an idle iteration, an empty frame. -/
def decoys : List Pass := [some (reply 0x45C1 0 1 3 [0x34]), none, some (reply 0x4480 3 0 3 [])]

/-- Waits for 0x4480: found behind the decoys, found in the first iteration, never found. -/
def waits : List WaitScript :=
  [⟨decoys, some (reply 0x4480 0 0 3 [0x00, 0xD7, 0x05])⟩, ⟨[], some (reply 0x4480 1 1 3 [0xE9])⟩, ⟨decoys, none⟩]

theorem witness_waits :
    (waits.all fun w => decide (w.Plays Config.vectors 0x4480 (if w.found = none then 3 else 4))) = true ∧
      (⟨[], none⟩ : WaitScript).Plays Config.vectors 0x4480 0 ∧
      (waits.map fun w => (w.result Config.vectors, w.confirmed Config.vectors)) =
        [(0x00, 0x00, []), (0x00, 0xE9, []), (Config.codes.timeout, Config.codes.timeout, [])] := by decide

/-- `SREQ` with `WAIT = 1`, with and without `SVAL`, before each of the waits; `POLL_MS` makes 4 iterations, or the 3 that
the last of them misses in. -/
theorem witness_GenericRequest_wait :
    ∀ w ∈ waits, ∀ x ∈ [((0x03 : Byte), [(0x00 : Byte)]), (0x02, [])],
      let r : Reply := reply 0x6600 0 0 3 x.2
      let s : State := { with_ [] (r.levels ++ w.levels ++ []) (r.bytes ++ w.bytes ++ []) with
        cfg := { Config.vectors with pollMs := if w.found = none then 400 else 250 }
        a := { Operands.zero with cid := 0x2600, flags := x.1, nid := 0x4480, tmo := 1 } }
      s.Startable ∧ s.a.len.toNat ≤ s.cfg.nmax ∧ r.Fits s.cfg s.a.len.toNat ∧ r.id = resp s.a.cid ∧
        s.waitFlag = true ∧ (s.sval = true → r.Good s.a.soff.toNat) ∧
        w.Plays s.cfg s.a.nid (ceilDiv (s.a.tmo.toNat * 1000) s.cfg.pollMs) := by decide

/-- P1, and the other waits. -/
theorem witness_SendDataConfirmed :
    ∀ w ∈ waits,
      let r : Reply := reply 0x6401 0 0 16 [0x00]
      let s : State := { with_ [] (r.levels ++ w.levels ++ []) (r.bytes ++ w.bytes ++ []) with
        cfg := { Config.vectors with pollMs := if w.found = none then 700 else 250 }, a := scenario }
      (s.Startable ∧ s.autowait = true ∧ s.dval = true ∧ r.Fits s.cfg (10 + s.a.dlen.toNat)) ∧
        (r.id = resp s.cfg.cid.afDataRequest ∧ r.Good s.cfg.schema.requestSrsp.status.off ∧ s.a.clus ≠ 0#16) ∧
        (s.a.dlen.toNat ≤ s.cfg.afMaxData ∧ s.a.dptr.toNat + s.a.dlen.toNat ≤ s.cfg.xcap) ∧
        w.Plays s.cfg s.cfg.cid.afDataConfirm (ceilDiv (s.a.tmo.toNat * 1000) s.cfg.pollMs) := by decide

/-- The match in the last iteration there is (4 iterations in 2 seconds). -/
theorem witness_WaitMatches :
    let c : Reply := reply 0x4480 0 0 3 [0xE9]
    let s : State := { with_ [] (decoys.flatMap passLevels ++ (true :: c.levels) ++ []) (decoys.flatMap passBytes ++ c.bytes ++ [])
      with cfg := { Config.vectors with pollMs := 500 }, a := { Operands.zero with nid := 0x4480, tmo := 2 } }
    s.Startable ∧ decoys.length + 1 = ceilDiv (s.a.tmo.toNat * 1000) s.cfg.pollMs ∧
      (∀ x ∈ decoys, Pass.misses s.cfg s.a.nid x = true) ∧ c.Fits s.cfg 0 ∧ c.id = s.a.nid ∧ c.pay ≠ [] := by decide

/-- Three iterations, and none at all (V10b). -/
theorem witness_WaitTimesOut :
    (let s : State := { with_ [] (decoys.flatMap passLevels ++ []) (decoys.flatMap passBytes ++ [])
       with cfg := { Config.vectors with pollMs := 400 }, a := { Operands.zero with nid := 0x4480, tmo := 1 } }
     s.Startable ∧ decoys.length = ceilDiv (s.a.tmo.toNat * 1000) s.cfg.pollMs ∧
       (∀ x ∈ decoys, Pass.misses s.cfg s.a.nid x = true)) ∧
    ([] : List Pass).length = ceilDiv (idle.a.tmo.toNat * 1000) idle.cfg.pollMs := by decide

/-- V10e: after the decoys the next poll fails; the last iteration there is. -/
theorem witness_ChipSelectTimeout_wait :
    let s : State := { with_ [] (decoys.flatMap passLevels ++ (true :: List.replicate 4 false) ++ []) (decoys.flatMap passBytes ++ []) with
      cfg := { Config.vectors with pollMs := 250 }, a := { Operands.zero with nid := 0x4480, tmo := 1 } }
    s.Startable ∧ decoys.length + 1 = ceilDiv (s.a.tmo.toNat * 1000) s.cfg.pollMs ∧
      (∀ x ∈ decoys, Pass.misses s.cfg s.a.nid x = true) ∧ s.cfg.tCs = .fin 4 := by decide

theorem witness_IdleWait :
    (let s : State := { with_ [] (List.replicate 20 false ++ []) [] with a := { Operands.zero with tmo := 2 } }
     s.Startable ∧ 20 = ceilDiv (s.a.tmo.toNat * 1000) s.cfg.pollMs) ∧
      0 = ceilDiv (idle.a.tmo.toNat * 1000) idle.cfg.pollMs := by decide

/-- The replies of `smallSend` and `smallReceive`. -/
def sendReplies : List Reply := [reply 0x6411 0 0 8 [0x00], reply 0x6411 0 0 8 [0x00], reply 0x6411 0 0 6 [0x00]]
def receiveReplies : List Reply :=
  [reply 0x6412 0 0 10 [0x00, 0x02, 0xB0, 0xB1], reply 0x6412 0 0 10 [0x00, 0x01, 0xB2], reply 0x6412 0 0 10 [0x00, 0x00]]

theorem witness_FragmentedSend :
    let r : Reply := reply 0x6402 0 0 23 [0x00]
    smallSend.Startable ∧ smallSend.autowait = false ∧ smallSend.cfg.schema = Config.layouts ∧ smallSend.dval = true ∧
      smallSend.a.clus ≠ 0#16 ∧ smallSend.cfg.afMaxData < smallSend.a.dlen.toNat ∧
      smallSend.a.dlen.toNat ≤ smallSend.cfg.xlenMax ∧ smallSend.a.amode ∈ smallSend.cfg.amodes ∧
      smallSend.a.dptr.toNat + smallSend.a.dlen.toNat ≤ smallSend.cfg.xcap ∧ r.Fits smallSend.cfg 20 ∧
      r.id = resp smallSend.cfg.cid.afDataRequestExt ∧ r.Good 0 ∧ sendReplies.length = smallSend.chunks + 1 ∧
      (∀ i < 3, ∀ x ∈ sendReplies[i]?, x.Fits smallSend.cfg (3 + smallSend.chunkSize i) ∧
        x.id = resp smallSend.cfg.cid.afDataStore ∧ x.Good 0) ∧
      smallSend.ready = r.levels ++ sendReplies.flatMap Reply.levels ++ [] ∧
      smallSend.rx = r.bytes ++ sendReplies.flatMap Reply.bytes ++ [] := by decide

/-- The same with `AUTOWAIT = 1`: found in the second of two iterations, never found, no iteration at all. -/
theorem witness_FragmentedSend_wait :
    ∀ x ∈ [((1 : Byte), (⟨[none], some (reply 0x4480 0 0 3 [0xE9])⟩ : WaitScript)),
        (1, ⟨[some (reply 0x45C0 0 0 3 [0x09]), none], none⟩), (0, ⟨[], none⟩)],
      let r : Reply := reply 0x6402 0 0 23 [0x00]
      let s : State := { smallSend with
        autowait := true, a := { smallSend.a with tmo := x.1 }
        ready := r.levels ++ sendReplies.flatMap Reply.levels ++ x.2.levels ++ []
        rx := r.bytes ++ sendReplies.flatMap Reply.bytes ++ x.2.bytes ++ [] }
      s.Startable ∧ s.autowait = true ∧
        x.2.Plays s.cfg s.cfg.cid.afDataConfirm (ceilDiv (s.a.tmo.toNat * 1000) s.cfg.pollMs) := by decide

theorem witness_FragmentedReceive :
    smallReceive.Startable ∧ smallReceive.cfg.schema = Config.layouts ∧ smallReceive.dval = true ∧
      smallReceive.a.dlen.toNat ≤ smallReceive.cfg.xlenMax ∧
      smallReceive.a.dptr.toNat + smallReceive.a.dlen.toNat ≤ smallReceive.cfg.xcap ∧
      receiveReplies.length = smallReceive.chunks + 1 ∧
      (∀ i < 3, ∀ x ∈ receiveReplies[i]?, x.Fits smallReceive.cfg 7 ∧
        x.id = resp smallReceive.cfg.cid.afDataRetrieve ∧
        if smallReceive.chunkSize i = 0 then x.Good 0
        else x.pay = [0x00#8, BitVec.ofNat 8 (smallReceive.chunkSize i)] ++
          (([0xB0, 0xB1, 0xB2] : List Byte).drop (smallReceive.chunkAt i)).take (smallReceive.chunkSize i)) ∧
      smallReceive.ready = receiveReplies.flatMap Reply.levels ++ [] ∧
      smallReceive.rx = receiveReplies.flatMap Reply.bytes ++ [] := by decide

/-- The TX rows' bounds: the shortest and the longest frame. -/
theorem witness_sent_frames :
    idle.cfg.schema = Config.layouts ∧ 23 ≤ idle.cfg.cap ∧
      (10 ≤ (10 : Byte).toNat ∧ 3 + (252 : Byte).toNat ≤ idle.cfg.cap ∧ 3 ≤ (3 : Byte).toNat) := by decide

theorem witness_FailingStatus :
    let s : State := responded 0x13 [0x02, 0x64, 0x12, 0x1A, 0x02]
    s.ds = .dStatus ∧ s.cmd ≠ 0x10#8 ∧ 0 = s.responseStatus ∧ 0 < (2 : Byte).toNat ∧ s.fbAt (3 + 0) ≠ 0x00#8 := by decide

/-- The three continuations of a send: no wait, a wait, a wait of no iteration. -/
theorem witness_SendDataResponse :
    let s : State := responded 0x11 [0x01, 0x64, 0x01, 0x00]
    (s.ds = .dStatus ∧ s.cmd = 0x11#8 ∧ 0 = s.cfg.schema.requestSrsp.status.off ∧ 0 < (1 : Byte).toNat ∧
      s.fbAt (3 + 0) = 0x00#8) ∧ ({ s with autowait := false } : State).autowait = false ∧
      (s.autowait = true ∧ ceilDiv (s.a.tmo.toNat * 1000) s.cfg.pollMs = 0) ∧
      ceilDiv ((1 : Byte).toNat * 1000) s.cfg.pollMs ≠ 0 := by decide

/-- The begin frame; the last data byte left; none left, with no wait, a wait, a wait of no iteration. -/
theorem witness_FragmentedSendResponses :
    let s : State := responded 0x12 [0x01, 0x64, 0x11, 0x00]
    (s.ds = .dStatus ∧ s.cmd = 0x12#8 ∧ 0 < (1 : Byte).toNat ∧ s.fbAt (3 + 0) = 0x00#8 ∧ 1 ≤ s.cfg.chunkMax) ∧
      (s.begun = false ∧ 0 = s.cfg.schema.sendExtSrsp.status.off ∧ 0 = s.cfg.schema.storeSrsp.status.off) ∧
      (let u : State := { s with begun := true, xoff := 599, a := { s.a with dlen := 600 } }; u.xoff.toNat < u.a.dlen.toNat) ∧
      (let u : State := { s with begun := true, autowait := false, xoff := 600, a := { s.a with dlen := 600 } }
       u.xoff = u.a.dlen ∧ u.autowait = false) ∧
      (let u : State := { s with begun := true, xoff := 600, a := { s.a with dlen := 600, tmo := 1 } }
       u.xoff = u.a.dlen ∧ u.autowait = true ∧ ceilDiv (u.a.tmo.toNat * 1000) u.cfg.pollMs ≠ 0) ∧
      ceilDiv (s.a.tmo.toNat * 1000) s.cfg.pollMs = 0 := by decide

/-- Nothing left; one byte left and the right size, then one too long; two left: one too short, the wrong count. -/
theorem witness_RetrieveResponse :
    let s : State := responded 0x13 [0x03, 0x64, 0x12, 0x00, 0x01, 0xB0]
    (s.ds = .dStatus ∧ s.cmd = 0x13#8 ∧ s.fbAt 3 = 0x00#8 ∧ s.cfg.schema = Config.layouts ∧
      s.a.dptr.toNat + s.a.dlen.toNat ≤ s.cfg.xcap ∧ s.xoff.toNat ≤ s.a.dlen.toNat ∧
      0 = min s.cfg.chunkMax (s.a.dlen.toNat - s.xoff.toNat)) ∧
    (let u : State := { s with a := { s.a with dlen := 1 } }
     1 = min u.cfg.chunkMax (u.a.dlen.toNat - u.xoff.toNat) ∧ (3 : Byte).toNat = 2 + 1 ∧ (u.fbAt 4).toNat = 1 ∧
       (4 : Byte).toNat ≠ 2 + 1) ∧
    (let u : State := { s with a := { s.a with dlen := 2 } }
     2 = min u.cfg.chunkMax (u.a.dlen.toNat - u.xoff.toNat) ∧ (3 : Byte).toNat ≠ 2 + 2 ∧ (u.fbAt 4).toNat ≠ 2) := by
  decide

theorem witness_ClassifySucceeds :
    (with_ [0x01, 0x46, 0x80] [] []).Quiet ∧ (with_ [0x01, 0x46, 0x80] [] []).cfg.valid = true := by decide

/-- Two buffers that differ behind byte 29 only. -/
theorem witness_ClassifyIsPure :
    let s : State := with_ (0x1D :: k11 ++ [0x02, 0x00, 0xAA]) [] []
    let u : State := with_ (0x1D :: k11 ++ [0x02, 0x00, 0xBB]) [] []
    s.Quiet ∧ u.Quiet ∧ s.cfg.schema = Config.layouts ∧ u.cfg = s.cfg ∧ s.fbBytes 0 30 = u.fbBytes 0 30 ∧
      s.exp = u.exp ∧ s.expv = u.expv ∧ s.k = u.k ∧ (nextState? (exec .clsfy s)).isSome = true ∧
      (nextState? (exec .clsfy u)).isSome = true := by decide

theorem witness_PairedResponseIsSync :
    let s : State := with_ [0x00, 0x21, 0x02] [true, false] (zeros ++ [0x02, 0x61, 0x02, 0x00, 0x07])
    s.Startable ∧ ((nextState? (exec .xchgRr s)).map fun t => (t.busy, t.res, t.fbAt 0)) = some (false, 0x00, 0x02) := by
  decide

/-- The notification rows: a running `CLSFY`, the expected id another one; lengths on either side of each fixed part. -/
theorem witness_notification_rows :
    let s : State := classifying [0x01, 0x45, 0xC0, 0x09]
    s.busy = true ∧ s.ds = .dIdle ∧ s.cfg.schema = Config.layouts ∧ ¬ (s.expv = true ∧ s.exp = 0x45C0) ∧
      ([1, 2, 3, 4, 10, 11, 12, 13, 16, 17, 26, 27].all fun n => decide (BitVec.ofNat 8 n ≠ 0#8)) = true := by decide

/-- `ExpectedOrUnknownFrame`: a response nobody expects, an expected one, an expected notification. -/
theorem witness_ExpectedOrUnknownFrame :
    (0x6401 : Word16) = resp Config.ids.afDataRequest ∧
      (let s : State := { classifying [] with expv := true, exp := 0x6401 }; s.expv = true ∧ s.exp = 0x6401) ∧
      (let s : State := { classifying [] with expv := true, exp := 0x4480 }
       s.expv = true ∧ s.exp = 0x4480 ∧ (0x4480 : Word16) = s.cfg.cid.afDataConfirm) := by decide

/-- An unrelated frame, and an empty one of the awaited id. -/
theorem witness_WaitDropsUnrelated :
    let s : State := { running 0x05 .dWaitClassify [0x01, 0x45, 0xC0, 0x09] with wid := 0x4480 }
    s.ds = .dWaitClassify ∧ s.cfg.valid = true ∧
      receivedHeader s.cfg (.zdoStateChangeInd 1) = some (0x01, 0x45C0) ∧ (0x45C0 : Word16) ≠ s.wid ∧
      receivedHeader s.cfg (.noMessage 0x4480) = some (0x00, 0x4480) := by decide

end Sys2Proof.Tests
end

section
/-! SUPPORT. What one step of the block can do, said once (R133, R174). A step inside an exchange shifts `PH` and leaves
the dispatcher alone (`Shifts`); a step between exchanges writes at most one thing outside `FB` (`Writes`) and then ends
the operation or goes on to another dispatcher state (`Proceeds`). `tick_cases` puts the three together. -/
namespace Sys2Proof.Machine

/-! ### What the running operation is -/

/-- The decoders are tables: a row applies, or the table goes on. -/
theorem row_of_ite {p : Prop} [Decidable p] {i j : Instr} {x : Except DecodeError Instr}
    (h : (if p then .ok i else x) = .ok j) : (p ∧ i = j) ∨ (¬ p ∧ x = .ok j) := by
  by_cases hp : p
  · rw [if_pos hp] at h; exact .inl ⟨hp, Except.ok.inj h⟩
  · rw [if_neg hp] at h; exact .inr ⟨hp, h⟩

theorem encode_of_decodeOp {v : Byte} {i : Instr} (c : Cfg) (h : decodeOp v = .ok i) : encode c i = [v] := by
  iterate 9
    obtain ⟨rfl, rfl⟩ | ⟨-, h⟩ := row_of_ite h
    · rfl
  exact nomatch h

theorem decodeOp_of_running {s : State} {i : Instr} (h : s.running = some i) : decodeOp s.cmd = .ok i := by
  revert h
  unfold State.running
  cases decodeOp s.cmd with
  | ok j => exact fun h => congrArg Except.ok (Option.some.inj h)
  | error e => exact nofun

theorem cmd_of_running {s : State} {i : Instr} {v : Byte} (h : s.running = some i) (hv : encode s.cfg i = [v]) :
    s.cmd = v :=
  (List.cons.inj ((encode_of_decodeOp s.cfg (decodeOp_of_running h)).symm.trans hv)).1

/-- The running operation opens a notification wait (R162, R165, R172). -/
def State.Awaits (s : State) : Prop :=
  s.cmd = 0x05#8 ∨ (s.cmd = 0x10#8 ∧ s.waitFlag = true) ∨ ((s.cmd = 0x11#8 ∨ s.cmd = 0x12#8) ∧ s.autowait = true)

/-! ### Updates that leave the registers with an owner of their own -/

/-- `t` has `CMD`, `MSGW`, `TSEQ`, the classifier registers and `XM` of `s`, and an `FB` in canonical form if `s` has
one. -/
structure Held (s t : State) : Prop where
  cmd : t.cmd = s.cmd
  msgw : t.msgw = s.msgw
  tseq : t.tseq = s.tseq
  k : t.k = s.k
  xm : t.xm = s.xm
  fb : Memory.wf s.cfg.cap s.fb = true → Memory.wf t.cfg.cap t.fb = true

theorem Held.refl (s : State) : Held s s := ⟨rfl, rfl, rfl, rfl, rfl, id⟩

theorem Held.trans {s t u : State} (h : Held s t) (g : Held t u) : Held s u :=
  ⟨g.cmd.trans h.cmd, g.msgw.trans h.msgw, g.tseq.trans h.tseq, g.k.trans h.k, g.xm.trans h.xm, g.fb ∘ h.fb⟩

theorem held_fbPut (s : State) (a : Nat) (bs : List Byte) : Held s (s.fbPut a bs) :=
  ⟨rfl, rfl, rfl, rfl, rfl, fbPut_wf s a bs⟩
theorem held_toPh (s : State) (p : Phase) : Held s (s.toPh p) := ⟨rfl, rfl, rfl, rfl, rfl, id⟩
theorem held_busReset (s : State) : Held s s.busReset := ⟨rfl, rfl, rfl, rfl, rfl, id⟩
theorem held_endOp (s : State) (v : Byte) : Held s (s.endOp v) := ⟨rfl, rfl, rfl, rfl, rfl, id⟩
theorem held_transfer (s : State) (off n : Nat) : Held s (s.transfer off n) := by
  have hfb := transfer_wf s off n
  unfold State.transfer at hfb ⊢
  split
  · exact .refl s
  · next h => exact ⟨rfl, rfl, rfl, rfl, rfl, by simpa only [if_neg h] using hfb⟩

theorem putFields_cons (s : State) (f : Nat × List Byte) (fs : List (Nat × List Byte)) :
    s.putFields (f :: fs) = (s.putField f.1 f.2).putFields fs := rfl

/-- Writing fields writes `FB` only. -/
theorem putFields_eq (s : State) (fs : List (Nat × List Byte)) :
    s.putFields fs = { s with fb := (s.putFields fs).fb } := by
  induction fs generalizing s with
  | nil => rfl
  | cons f fs ih => rw [putFields_cons, ih]; rfl

theorem held_putFields (s : State) (fs : List (Nat × List Byte)) : Held s (s.putFields fs) := by
  induction fs generalizing s with
  | nil => exact .refl s
  | cons f fs ih => exact (held_fbPut s _ _).trans (ih _)

/-! ### A step between exchanges -/

/-- The operation ends (R262): `PH` stays, select is left or released. -/
structure Ends (s t : State) : Prop where
  held : Held s t
  busy : t.busy = false
  ds : t.ds = .dIdle
  ph : t.ph = s.ph
  sel : t.sel = s.sel ∨ t.sel = false

/-- The operation goes on at `d`. -/
structure Goes (s : State) (d : DState) (t : State) : Prop where
  held : Held s t
  busy : t.busy = s.busy
  done : t.done = s.done
  ds : t.ds = d
  ph : t.ph = s.ph
  sel : t.sel = s.sel

/-- The operation ends, or goes on at a dispatcher state that satisfies `D`. -/
def Proceeds (s : State) (D : DState → Prop) (t : State) : Prop := Ends s t ∨ ∃ d, D d ∧ Goes s d t

theorem Ends.proceeds {s t : State} {D : DState → Prop} (h : Ends s t) : Proceeds s D t := .inl h

theorem Goes.proceeds {s t : State} {D : DState → Prop} {d : DState} (h : Goes s d t) (hd : D d) : Proceeds s D t :=
  .inr ⟨d, hd, h⟩

theorem Proceeds.held {s t : State} {D : DState → Prop} (h : Proceeds s D t) : Held s t := by
  obtain h | ⟨d, -, h⟩ := h
  · exact h.held
  · exact h.held

theorem ends_endOp (s : State) (v : Byte) : Ends s (s.endOp v) := ⟨held_endOp s v, rfl, rfl, rfl, .inl rfl⟩
theorem ends_failWith (s : State) (k : ResultKind) : Ends s (s.failWith k) := ends_endOp s _
theorem ends_reset (s : State) (k : ResultKind) : Ends s (s.busReset.failWith k) :=
  ⟨(held_busReset s).trans (held_endOp _ _), rfl, rfl, rfl, .inr rfl⟩
theorem goes_toDs (s : State) (d : DState) : Goes s d (s.toDs d) :=
  ⟨⟨rfl, rfl, rfl, rfl, rfl, id⟩, rfl, rfl, rfl, rfl, rfl⟩
theorem goes_startBuild (s : State) (len : Nat) (id : Word16) : Goes s .dBuild (s.startBuild len id) :=
  ⟨(held_fbPut s _ _).trans (goes_toDs _ .dBuild).held, rfl, rfl, rfl, rfl, rfl⟩
theorem goes_nextChunk (s : State) : Goes s .dChunk s.nextChunk :=
  ⟨⟨rfl, rfl, rfl, rfl, rfl, id⟩, rfl, rfl, rfl, rfl, rfl⟩
theorem goes_sampleStep (s : State) :
    Goes s (if s.nextReady = true then .dWaitPoll else .dWaitDelay) s.sampleStep :=
  ⟨⟨rfl, rfl, rfl, rfl, rfl, id⟩, rfl, rfl, rfl, rfl, rfl⟩

/-- A record update outside what `Held` and `Ends` speak of may come before the end of the operation. -/
theorem Ends.of_update {s u t : State} (h : Ends u t) (hu : Held s u) (hp : u.ph = s.ph) (hs : u.sel = s.sel) :
    Ends s t :=
  ⟨hu.trans h.held, h.busy, h.ds, h.ph.trans hp, hs ▸ h.sel⟩

/-- And before going on. -/
theorem Goes.of_update {s u t : State} {d : DState} (h : Goes u d t) (hu : Held s u) (hb : u.busy = s.busy)
    (hd : u.done = s.done) (hp : u.ph = s.ph) (hs : u.sel = s.sel) : Goes s d t :=
  ⟨hu.trans h.held, h.busy.trans hb, h.done.trans hd, h.ds, h.ph.trans hp, h.sel.trans hs⟩

section
variable {s : State} {D : DState → Prop}

theorem startWait_proceeds (id : Word16) (tmo : Byte) (hD : D .dWaitSample) : Proceeds s D (s.startWait id tmo) := by
  unfold State.startWait
  split
  · exact Ends.proceeds (.of_update (ends_failWith _ .timeout) ⟨rfl, rfl, rfl, rfl, rfl, fun h => h⟩ rfl rfl)
  · exact Goes.proceeds ⟨⟨rfl, rfl, rfl, rfl, rfl, fun h => h⟩, rfl, rfl, rfl, rfl, rfl⟩ hD

theorem confirmWait_proceeds (hD : s.autowait = true → D .dWaitSample) : Proceeds s D s.confirmWait := by
  unfold State.confirmWait
  split
  · next h => exact startWait_proceeds _ _ (hD h)
  · exact (ends_endOp s _).proceeds

theorem sreqWait_proceeds (hD : s.waitFlag = true → D .dWaitSample) : Proceeds s D s.sreqWait := by
  unfold State.sreqWait
  split
  · next h => exact startWait_proceeds _ _ (hD h)
  · exact (ends_endOp s _).proceeds

theorem withStatus_cases (s : State) (len soff : Nat) (ok : State) :
    Ends s (s.withStatus len soff ok) ∨ s.withStatus len soff ok = ok := by
  unfold State.withStatus
  split
  · exact .inl (ends_reset s _)
  · split
    · exact .inr rfl
    · exact .inl (ends_endOp s _)

theorem afsendxNext_proceeds (hw : s.autowait = true → D .dWaitSample) (hc : D .dChunk) :
    Proceeds s D s.afsendxNext := by
  unfold State.afsendxNext
  split
  · exact Goes.proceeds ⟨⟨rfl, rfl, rfl, rfl, rfl, id⟩, rfl, rfl, rfl, rfl, rfl⟩ hc
  · split
    · exact confirmWait_proceeds hw
    · exact (goes_nextChunk s).proceeds hc

theorem validateStep_proceeds (hw : s.Awaits → D .dWaitSample) (hb : D .dBuild) : Proceeds s D s.validateStep := by
  have build (len : Nat) (id : Word16) : Proceeds s D (s.startBuild len id) := (goes_startBuild s len id).proceeds hb
  unfold State.validateStep
  split
  · split
    · exact (ends_failWith s _).proceeds
    · exact build _ _
  · next h => exact startWait_proceeds _ _ (hw (.inl (cmd_of_running h rfl)))
  · split
    · exact (ends_failWith s _).proceeds
    · exact build _ _
  · split
    · exact (ends_failWith s _).proceeds
    · exact Goes.proceeds (.of_update (goes_startBuild _ _ _) ⟨rfl, rfl, rfl, rfl, rfl, id⟩ rfl rfl rfl rfl) hb
  · split
    · exact (ends_failWith s _).proceeds
    · exact Goes.proceeds (.of_update (goes_startBuild _ _ _) ⟨rfl, rfl, rfl, rfl, rfl, id⟩ rfl rfl rfl rfl) hb
  · exact (ends_failWith s _).proceeds

theorem afterExchange_proceeds (hc : s.ds = .dWaitPoll → D .dWaitClassify) (hs : D .dStatus)
    (hw : s.Awaits → D .dWaitSample) : Proceeds s D s.afterExchange := by
  have status : Proceeds s D (s.toDs .dStatus) := (goes_toDs s .dStatus).proceeds hs
  unfold State.afterExchange
  split
  · next h => exact (goes_toDs s .dWaitClassify).proceeds (hc h)
  · split
    · next h =>
      split
      · exact status
      · exact sreqWait_proceeds fun h' => hw (.inr (.inl ⟨cmd_of_running h rfl, h'⟩))
    · exact status
    · exact status
    · exact status
    · exact (ends_endOp s _).proceeds

theorem matched_ends (s : State) (len : Nat) : Ends s (s.matched len) := by
  have confirm : Ends s (s.withStatus len s.cfg.schema.confirm.status.off (s.endOp 0#8)) := by
    obtain h | h := withStatus_cases s len s.cfg.schema.confirm.status.off (s.endOp 0#8)
    · exact h
    · rw [h]; exact ends_endOp s _
  unfold State.matched
  split
  · exact confirm
  · exact confirm
  · exact ends_endOp s _

theorem afterClassify_proceeds (len : Byte) (id : Word16) (hb : s.ds = .dWaitClassify ∨ s.busy = true)
    (hd : s.ds = .dWaitClassify → D .dWaitDelay) : Proceeds s D (s.afterClassify len id) := by
  unfold State.afterClassify
  split
  · next h =>
    split
    · exact (matched_ends s _).proceeds
    · exact (goes_toDs s _).proceeds (hd h)
  · next h => rw [if_pos (hb.resolve_left h)]; exact (ends_endOp s _).proceeds

theorem delayStep_proceeds (hw : D .dWaitSample) : Proceeds s D s.delayStep := by
  unfold State.delayStep
  split
  · exact Ends.proceeds (.of_update (ends_failWith _ .timeout) ⟨rfl, rfl, rfl, rfl, rfl, id⟩ rfl rfl)
  · exact Goes.proceeds ⟨⟨rfl, rfl, rfl, rfl, rfl, id⟩, rfl, rfl, rfl, rfl, rfl⟩ hw

theorem chunkStep_proceeds (hb : D .dBuild) : Proceeds s D s.chunkStep := by
  unfold State.chunkStep
  split
  · exact (goes_startBuild s _ _).proceeds hb
  · exact (goes_startBuild s _ _).proceeds hb
  · exact (ends_failWith s _).proceeds

end

/-- What a step between exchanges writes outside `FB` and beside `Held`'s registers, before it goes on: the sample of
`RDYQ`, a classification, `TSEQ` with its frame, a retrieved chunk, or nothing. -/
inductive Writes (s : State) : State → Prop
  | nothing : Writes s s
  | ready (b : Bool) (h : s.cmd = 0x03#8) : Writes s { s with msgw := b }
  | classified (v : Variant) (len : Byte) (id : Word16) (h : s.ds = .dWaitClassify ∨ s.cmd = 0x04#8) :
      Writes s (s.classifyAs v len id)
  | built (h : s.ds = .dBuild) : Writes s { s with tseq := s.buildStep.tseq }
  | stored (h : s.cmd = 0x13#8) : Writes s s.storeRetrieved

theorem Writes.control {s t : State} (h : Writes s t) :
    t.cfg = s.cfg ∧ t.cmd = s.cmd ∧ t.busy = s.busy ∧ t.done = s.done ∧ t.ph = s.ph ∧ t.sel = s.sel ∧ t.fb = s.fb := by
  cases h <;> exact ⟨rfl, rfl, rfl, rfl, rfl, rfl, rfl⟩

/-- A step between exchanges: one write, then on. -/
def Stepped (s : State) (D : DState → Prop) (t : State) : Prop := ∃ u, Writes s u ∧ Proceeds u D t

theorem Proceeds.stepped {s t : State} {D : DState → Prop} (h : Proceeds s D t) : Stepped s D t := ⟨s, .nothing, h⟩

/-- What a response leads to: only that of `AFRETRX` writes anything first, its chunk (R196). -/
def Responds (s : State) (D : DState → Prop) (t : State) : Prop :=
  Proceeds s D t ∨ (s.cmd = 0x13#8 ∧ Proceeds s.storeRetrieved D t)

section
variable {s : State} {D : DState → Prop}

theorem Responds.stepped {t : State} (h : Responds s D t) : Stepped s D t := by
  obtain h | ⟨hc, h⟩ := h
  · exact h.stepped
  · exact ⟨_, .stored hc, h⟩

theorem afretrxNext_responds (len : Nat) (h : s.cmd = 0x13#8) (hc : D .dChunk) :
    Responds s D (s.afretrxNext len) := by
  unfold State.afretrxNext
  split
  · exact .inl (ends_reset s _).proceeds
  · split
    · exact .inl (ends_endOp s _).proceeds
    · exact .inr ⟨h, (goes_nextChunk _).proceeds hc⟩

theorem afterStatus_responds (len : Nat) (hw : s.Awaits → D .dWaitSample) (hc : D .dChunk) :
    Responds s D (s.afterStatus len) := by
  unfold State.afterStatus
  split
  · next h => exact .inl (sreqWait_proceeds fun h' => hw (.inr (.inl ⟨cmd_of_running h rfl, h'⟩)))
  · next h => exact .inl (confirmWait_proceeds fun h' => hw (.inr (.inr ⟨.inl (cmd_of_running h rfl), h'⟩)))
  · next h => exact .inl (afsendxNext_proceeds (fun h' => hw (.inr (.inr ⟨.inr (cmd_of_running h rfl), h'⟩))) hc)
  · next h => exact afretrxNext_responds len (cmd_of_running h rfl) hc
  · exact .inl (ends_endOp s _).proceeds

theorem respond_responds (len : Nat) (hw : s.Awaits → D .dWaitSample) (hc : D .dChunk) :
    Responds s D (s.respond len) := by
  obtain h | h := withStatus_cases s len s.statusOffset (s.afterStatus len)
  · exact .inl h.proceeds
  · rw [State.respond, h]; exact afterStatus_responds len hw hc

/-- Whoever classifies, nothing but the classification is written. -/
theorem interpret_held (s : State) (v : Variant) (len : Byte) (id : Word16) :
    Held (s.classifyAs v len id) (s.interpret v len id) := by
  unfold State.interpret State.afterClassify
  split
  · split
    · exact (matched_ends _ _).held
    · exact (goes_toDs _ _).held
  · split
    · exact held_endOp _ _
    · exact .refl _

theorem interpret_stepped (v : Variant) (len : Byte) (id : Word16)
    (h : s.ds = .dWaitClassify ∨ (s.busy = true ∧ s.cmd = 0x04#8)) (hd : s.ds = .dWaitClassify → D .dWaitDelay) :
    Stepped s D (s.interpret v len id) :=
  ⟨_, .classified v len id (h.imp_right And.right),
    afterClassify_proceeds (s := s.classifyAs v len id) len id (h.imp_right And.left) hd⟩

theorem directStep_stepped (hb : s.busy = true) (hd : s.ds = .dIdle) : Stepped s D s.directStep := by
  unfold State.directStep
  split
  · next h =>
    exact ⟨_, .ready s.nextReady (cmd_of_running h rfl),
      Ends.proceeds (.of_update (ends_endOp _ 0#8) ⟨rfl, rfl, rfl, rfl, rfl, id⟩ rfl rfl)⟩
  · next h => exact interpret_stepped _ _ _ (.inr ⟨hb, cmd_of_running h rfl⟩) (by simp [hd])
  · exact (ends_failWith s _).proceeds.stepped

/-- Every frame is built behind its header: `FB`, `DS` and `TSEQ` alone change (R160). -/
theorem goes_built (s : State) (len : Byte) (id : Word16) (fs : List (Nat × List Byte)) (n : Byte) :
    Goes { s with tseq := n } .dExchange { (s.putHeader len id).putFields fs with tseq := n, ds := .dExchange } := by
  obtain ⟨hcmd, hmsgw, -, hk, hxm, hfb⟩ := (held_fbPut s 0 [len, msb id, lsb id]).trans (held_putFields _ fs)
  refine ⟨⟨hcmd, hmsgw, rfl, hk, hxm, hfb⟩, ?_, ?_, rfl, ?_, ?_⟩ <;> rw [putFields_eq] <;> rfl

/-- A frame that takes no `TSEQ`. -/
theorem goes_fields (s : State) (len : Byte) (id : Word16) (fs : List (Nat × List Byte)) :
    Goes s .dExchange (((s.putHeader len id).putFields fs).toDs .dExchange) := by
  have h := goes_built s len id fs s.tseq
  rw [putFields_eq] at h ⊢
  exact h

theorem goes_buildRequest (s : State) (len : Byte) :
    Goes { s with tseq := s.tseq + 1 } .dExchange (s.buildRequest len) := goes_built s len _ [(0, _)] _

theorem goes_buildSendExt (s : State) : Goes { s with tseq := s.tseq + 1 } .dExchange s.buildSendExt :=
  goes_built s _ _ _ _

theorem goes_buildStore (s : State) (len : Byte) : Goes s .dExchange (s.buildStore len) := goes_fields s _ _ _

theorem goes_buildRetrieve (s : State) : Goes s .dExchange s.buildRetrieve := goes_fields s _ _ _

theorem buildStep_goes (s : State) : Goes { s with tseq := s.buildStep.tseq } .dExchange s.buildStep := by
  have same {t : State} (h : Goes s .dExchange t) : Goes { s with tseq := t.tseq } .dExchange t :=
    h.held.tseq.symm ▸ h
  unfold State.buildStep
  split
  · exact goes_toDs s _
  · split
    · exact goes_buildRequest s _
    · exact goes_buildSendExt s
    · exact same (goes_buildStore s _)
    · exact same (goes_buildRetrieve s)
    · exact goes_toDs s _

end

/-! ### A step inside an exchange -/

/-- `PH` moves, and select with it; the dispatcher stands still. -/
structure Shifts (s t : State) : Prop where
  held : Held s t
  busy : t.busy = s.busy
  done : t.done = s.done
  ds : t.ds = s.ds
  sel : s.sel = s.ph.selected → t.sel = t.ph.selected

theorem Shifts.trans {s t u : State} (h : Shifts s t) (g : Shifts t u) : Shifts s u :=
  ⟨h.held.trans g.held, g.busy.trans h.busy, g.done.trans h.done, g.ds.trans h.ds, g.sel ∘ h.sel⟩

theorem shifts_exchangeError (s : State) (k : ResultKind) : Shifts s (s.exchangeError k) :=
  ⟨⟨rfl, rfl, rfl, rfl, rfl, id⟩, rfl, rfl, rfl, fun _ => rfl⟩

/-- Where select is written, it is written with the phase (R135). -/
theorem shifts_select (s : State) (p : Phase) : Shifts s ((s.setSelect p.selected).toPh p) :=
  ⟨⟨rfl, rfl, rfl, rfl, rfl, id⟩, rfl, rfl, rfl, fun _ => rfl⟩

theorem shifts_toPh {s : State} {p : Phase} (h : s.ph.selected = p.selected) : Shifts s (s.toPh p) :=
  ⟨held_toPh s p, rfl, rfl, rfl, fun hs => hs.trans h⟩

theorem shifts_loadSpin (s : State) (b : Bound) : Shifts s (s.loadSpin b) := by
  obtain ⟨x, h⟩ := loadSpin_eq s b
  exact h ▸ ⟨⟨rfl, rfl, rfl, rfl, rfl, id⟩, rfl, rfl, rfl, id⟩

theorem shifts_sampled (s : State) : Shifts s s.sampled := ⟨⟨rfl, rfl, rfl, rfl, rfl, id⟩, rfl, rfl, rfl, id⟩

theorem shifts_fbPut (s : State) (a : Nat) (bs : List Byte) : Shifts s (s.fbPut a bs) :=
  ⟨held_fbPut s a bs, rfl, rfl, rfl, id⟩

/-- A transfer changes no phase. -/
theorem transfer_ph (s : State) (off n : Nat) : (s.transfer off n).ph = s.ph := by
  unfold State.transfer
  split <;> rfl

theorem shifts_transfer (s : State) (off n : Nat) : Shifts s (s.transfer off n) := by
  have held := held_transfer s off n
  unfold State.transfer at held ⊢
  split at held
  · next h => rw [if_pos h]; exact ⟨held, rfl, rfl, rfl, id⟩
  · next h => rw [if_neg h]; exact ⟨held, rfl, rfl, rfl, id⟩

theorem shifts_pollStart (s : State) : Shifts s s.pollStart :=
  (shifts_fbPut s 0 [0#8, 0#8, 0#8]).trans <|
    .trans (t := { s.zeroHeader with expv := false }) ⟨⟨rfl, rfl, rfl, rfl, rfl, id⟩, rfl, rfl, rfl, id⟩
      (shifts_select _ .selectAsserted)

theorem shifts_requestStart (s : State) : Shifts s s.requestStart := by
  unfold State.requestStart
  split
  · exact shifts_exchangeError s _
  · exact .trans (t := { s with exp := resp s.frameCid, expv := true })
      ⟨⟨rfl, rfl, rfl, rfl, rfl, id⟩, rfl, rfl, rfl, id⟩ (shifts_select _ .selectAsserted)

theorem shifts_exchangeStep (s : State) : Shifts s s.exchangeStep := by
  unfold State.exchangeStep
  split
  · exact shifts_pollStart s
  · exact shifts_requestStart s

/-- Both waits stand between two phases under select. -/
theorem shifts_awaitStep {s : State} {next : Phase} (level : Bool) (b : Bound) (k : ResultKind)
    (h : s.ph.selected = next.selected) : Shifts s (s.awaitStep level b next k) := by
  unfold State.awaitStep
  split
  · exact (shifts_sampled s).trans (shifts_toPh h)
  · split
    · exact shifts_sampled s
    · have spin : Shifts s { s.sampled with spin := s.spin - 1 } :=
        ⟨⟨rfl, rfl, rfl, rfl, rfl, id⟩, rfl, rfl, rfl, id⟩
      split
      · exact spin.trans (shifts_exchangeError _ _)
      · exact spin

theorem shifts_selectStep {s : State} (h : s.ph = .selectAsserted) : Shifts s s.selectStep :=
  (shifts_toPh (by rw [h]; rfl)).trans (shifts_loadSpin _ _)

theorem shifts_sendStep {s : State} (h : s.ph = .transferring) : Shifts s s.sendStep :=
  (shifts_transfer s _ _).trans <| (shifts_fbPut _ _ _).trans <|
    .trans (shifts_toPh (by rw [fbPut_ph, transfer_ph, h]; rfl)) (shifts_loadSpin _ _)

theorem shifts_headerReceived {s : State} (h : s.ph = .rxHeader) : Shifts s s.headerReceived := by
  unfold State.headerReceived
  split
  · exact shifts_exchangeError s _
  · split
    · exact shifts_select s .complete
    · exact shifts_toPh (by rw [h]; rfl)

theorem shifts_headerStep {s : State} (h : s.ph = .rxHeader) : Shifts s s.headerStep :=
  (shifts_transfer s _ _).trans (shifts_headerReceived ((transfer_ph s _ _).trans h))

theorem shifts_payloadStep (s : State) : Shifts s s.payloadStep :=
  (shifts_transfer s _ _).trans (shifts_select _ .complete)

/-! ### One step of the block -/

/-- The dispatcher states a step between exchanges may go on to, by where the block stands (R174). -/
def State.LeadsTo (s : State) : DState → Prop
  | .dIdle | .dValidate | .dDone => False
  | .dBuild => s.ph = .idle ∧ (s.ds = .dValidate ∨ s.ds = .dChunk)
  | .dExchange => s.ph = .idle ∧ s.ds = .dBuild
  | .dStatus => s.ph = .complete
  | .dWaitSample => s.Awaits ∨ s.ds = .dWaitDelay
  | .dWaitPoll => s.ds = .dWaitSample
  | .dWaitClassify => s.ds = .dWaitPoll
  | .dWaitDelay => s.ds = .dWaitSample ∨ s.ds = .dWaitClassify
  | .dChunk => s.ph = .idle ∧ s.ds = .dStatus

/-- One step of the running block: it shifts the phase of an exchange, or it stands between two exchanges, or the
exchange is over. -/
inductive TickCase (s : State) : Prop
  | exchange (h : s.ph ≠ .idle ∨ s.ds = .dExchange ∨ s.ds = .dWaitPoll) (ht : Shifts s s.tick)
  | between (h : s.ph = .idle) (ht : Stepped s s.LeadsTo s.tick)
  | ended (h : s.ph = .complete ∨ s.ph = .error) (ht : Proceeds (s.toPh .idle) s.LeadsTo s.tick)

theorem idlePhaseStep_cases {s : State} (hb : s.busy = true) (hp : s.ph = .idle) :
    ((s.ds = .dExchange ∨ s.ds = .dWaitPoll) ∧ Shifts s s.idlePhaseStep) ∨ Stepped s s.LeadsTo s.idlePhaseStep := by
  unfold State.idlePhaseStep
  split
  case h_1 h => exact .inr (directStep_stepped hb h)
  case h_2 h => exact .inr (validateStep_proceeds .inl ⟨hp, .inl h⟩).stepped
  case h_3 h => exact .inr ⟨_, .built h, (buildStep_goes s).proceeds ⟨hp, h⟩⟩
  case h_4 h => exact .inl ⟨.inl h, shifts_exchangeStep s⟩
  case h_5 h => exact .inr (respond_responds _ .inl ⟨hp, h⟩).stepped
  case h_6 h =>
    refine .inr ((goes_sampleStep s).proceeds ?_).stepped
    split
    · exact h
    · exact .inl h
  case h_7 h => exact .inl ⟨.inr h, shifts_exchangeStep s⟩
  case h_8 h => exact .inr (interpret_stepped _ _ _ (.inl h) .inr)
  case h_9 h => exact .inr (delayStep_proceeds (.inr h)).stepped
  case h_10 h => exact .inr (chunkStep_proceeds ⟨hp, .inr h⟩).stepped
  case h_11 => exact .inr (ends_endOp s _).proceeds.stepped

theorem tick_cases {s : State} (hb : s.busy = true) : TickCase s := by
  cases hp : s.ph with
  | idle =>
    have ht : s.tick = s.idlePhaseStep := by simp only [State.tick, hp]
    obtain ⟨hd, h⟩ | h := idlePhaseStep_cases hb hp
    · exact .exchange (.inr hd) (ht ▸ h)
    · exact .between hp (ht ▸ h)
  | selectAsserted =>
    exact .exchange (by simp [hp]) (by simpa only [State.tick, hp] using shifts_selectStep hp)
  | awaitingReady =>
    have ht : s.tick = s.readyStep := by simp only [State.tick, hp]
    exact .exchange (by simp [hp]) (ht ▸ shifts_awaitStep _ _ _ (by rw [hp]; rfl))
  | transferring => exact .exchange (by simp [hp]) (by simpa only [State.tick, hp] using shifts_sendStep hp)
  | awaitingReadyRelease =>
    have ht : s.tick = s.releaseStep := by simp only [State.tick, hp]
    exact .exchange (by simp [hp]) (ht ▸ shifts_awaitStep _ _ _ (by rw [hp]; rfl))
  | rxHeader => exact .exchange (by simp [hp]) (by simpa only [State.tick, hp] using shifts_headerStep hp)
  | rxPayload => exact .exchange (by simp [hp]) (by simpa only [State.tick, hp] using shifts_payloadStep s)
  | complete =>
    have ht : s.tick = s.completeStep := by simp only [State.tick, hp]
    unfold State.completeStep at ht
    split at ht
    · exact .exchange (by simp [hp]) (ht ▸ shifts_exchangeError s _)
    · exact .ended (.inl hp) (ht ▸ afterExchange_proceeds (s := s.toPh .idle) id hp .inl)
  | error =>
    have ht : s.tick = (s.toPh .idle).failWith s.errk := by simp only [State.tick, hp, State.leaveError]
    exact .ended (.inr hp) (ht ▸ (ends_failWith _ _).proceeds)

end Sys2Proof.Machine
end

section
/-! SUPPORT. What a valid configuration gives, and the frame rows at the points where the running block executes them
(R94, R95, R101, R212; entry 6): each does what the operation's own step does. -/
namespace Sys2Proof.Machine

/-! ### A valid configuration (R8, R9, R101) -/

theorem check_of_valid {c : Cfg} {b : Bool} (h : c.valid = true) (hb : b ∈ c.checks) : b = true :=
  List.all_eq_true.mp h b hb

theorem cap_le_of_valid {c : Cfg} (h : c.valid = true) : c.cap ≤ 258 :=
  of_decide_eq_true (check_of_valid h (by simp [Cfg.checks]))

theorem le_cap_of_valid {c : Cfg} (h : c.valid = true) : 30 ≤ c.cap :=
  of_decide_eq_true (check_of_valid (b := decide (hdr + 27 ≤ c.cap)) h (by simp [Cfg.checks]))

/-- A frame's length fits the length byte (R91). -/
theorem nmax_lt_of_valid {c : Cfg} (h : c.valid = true) : c.nmax < 256 := by
  have := cap_le_of_valid h
  simp only [Cfg.nmax, hdr]
  omega

theorem afMaxData_of_valid {c : Cfg} (h : c.valid = true) : c.afMaxData + requestFixed ≤ c.nmax :=
  of_decide_eq_true (check_of_valid h (by simp [Cfg.checks]))

theorem schema_check_of_valid {c : Cfg} {b : Bool} (h : c.valid = true) (hb : b ∈ c.schema.checks c.nmax c.chunkMax) :
    b = true :=
  List.all_eq_true.mp (check_of_valid (b := (c.schema.checks c.nmax c.chunkMax).all id) h (by simp [Cfg.checks])) b hb

theorem sendExt_fixed_of_valid {c : Cfg} (h : c.valid = true) :
    1 ≤ c.schema.sendExt.fixed ∧ c.schema.sendExt.fixed ≤ c.nmax := by
  refine ⟨of_decide_eq_true (schema_check_of_valid h (by simp [Schema.checks])), ?_⟩
  have hfit := schema_check_of_valid h (List.mem_cons_self ..)
  exact of_decide_eq_true (Bool.and_eq_true_iff.mp hfit).1

theorem cid_valid_of_valid {c : Cfg} (h : c.valid = true) : c.cid.valid = true :=
  check_of_valid h (by simp [Cfg.checks])

/-- The ten ids are pairwise distinct (R101). -/
theorem ids_nodup_of_valid {c : Cfg} (h : c.valid = true) : (c.cid.requests ++ c.cid.notifications).Nodup :=
  of_decide_eq_true (Bool.and_eq_true_iff.mp (cid_valid_of_valid h)).1

/-- No notification id is the response id of a request (R101). -/
theorem notification_ne_resp_of_valid {c : Cfg} (h : c.valid = true) {r n : Word16} (hr : r ∈ c.cid.requests)
    (hn : n ∈ c.cid.notifications) : n ≠ resp r := by
  have := (Bool.and_eq_true_iff.mp (cid_valid_of_valid h)).2
  simpa using List.all_eq_true.mp (List.all_eq_true.mp this r hr) n hn

/-! ### Received frames -/

theorem variantOfId_unknown {c : CommandIds} {id : Word16} (h : ∀ n ∈ c.notifications, n ≠ id) :
    variantOfId c id = .unknown := by
  simp only [CommandIds.notifications, List.forall_mem_cons] at h
  obtain ⟨h1, h2, h3, h4, h5, h6, -⟩ := h
  simp only [variantOfId, h1.symm, h2.symm, h3.symm, h4.symm, h5.symm, h6.symm, if_false]

/-- With length 0 the id's own variant plays no part (R95, R212). -/
theorem classifyAs_zero (s : State) (v w : Variant) (id : Word16) : s.classifyAs v 0#8 id = s.classifyAs w 0#8 id := by
  simp only [State.classifyAs, selectVariant_zero]

theorem receive_zero (s : State) (v w : Variant) (id : Word16) : s.receive v 0#8 id = s.receive w 0#8 id := by
  simp only [State.receive, State.interpret, classifyAs_zero s v w id]

/-- The row a received header decodes to receives the frame with that header. -/
theorem exec_of_decodeRx {s : State} {len : Byte} {id : Word16} {i : Instr} (hv : s.cfg.valid = true)
    (h : decodeRx s.cfg len id = .ok i) : exec i s = .next (s.receive (variantOfId s.cfg.cid id) len id) := by
  have response {r : Word16} (hr : r ∈ s.cfg.cid.requests) (hid : id = resp r) :
      variantOfId s.cfg.cid id = .unknown :=
    variantOfId_unknown fun n hn => hid ▸ notification_ne_resp_of_valid hv hr hn
  obtain ⟨h0, rfl⟩ | ⟨-, h⟩ := row_of_ite h
  · rw [h0, receive_zero s _ .noMessage]; rfl
  obtain ⟨h1, rfl⟩ | ⟨-, h⟩ := row_of_ite h
  · rw [response (by simp [CommandIds.requests]) h1, h1]; rfl
  obtain ⟨h2, rfl⟩ | ⟨-, h⟩ := row_of_ite h
  · rw [response (by simp [CommandIds.requests]) h2, h2]; rfl
  obtain ⟨h3, rfl⟩ | ⟨-, h⟩ := row_of_ite h
  · rw [response (by simp [CommandIds.requests]) h3, h3]; rfl
  obtain ⟨h4, rfl⟩ | ⟨-, h⟩ := row_of_ite h
  · rw [response (by simp [CommandIds.requests]) h4, h4]; rfl
  unfold variantOfId
  obtain ⟨h5, rfl⟩ | ⟨h5, h⟩ := row_of_ite h
  · rw [if_pos h5, h5]; rfl
  obtain ⟨h6, rfl⟩ | ⟨h6, h⟩ := row_of_ite h
  · rw [if_neg h5, if_pos h6, h6]; rfl
  obtain ⟨h7, rfl⟩ | ⟨h7, h⟩ := row_of_ite h
  · rw [if_neg h5, if_neg h6, if_pos h7, h7]; rfl
  obtain ⟨h8, rfl⟩ | ⟨h8, h⟩ := row_of_ite h
  · rw [if_neg h5, if_neg h6, if_neg h7, if_pos h8, h8]; rfl
  obtain ⟨h9, rfl⟩ | ⟨h9, h⟩ := row_of_ite h
  · rw [if_neg h5, if_neg h6, if_neg h7, if_neg h8, if_pos h9, h9]; rfl
  obtain ⟨h10, rfl⟩ | ⟨h10, h⟩ := row_of_ite h
  · rw [if_neg h5, if_neg h6, if_neg h7, if_neg h8, if_neg h9, if_pos h10, h10]; rfl
  exact nomatch h

theorem decodeRx_of_frameReceived {s : State} {i : Instr} (h : s.frameReceived = some i) :
    decodeRx s.cfg (s.fbAt 0) s.frameCid = .ok i := by
  revert h
  unfold State.frameReceived
  cases decodeRx s.cfg (s.fbAt 0) s.frameCid with
  | ok j => exact fun h => congrArg Except.ok (Option.some.inj h)
  | error e => exact nofun

/-- The received row in `FB`: at `D_STATUS` the operation's own status step (R163). -/
theorem exec_frameReceived_status {s : State} {i : Instr} (hv : s.cfg.valid = true) (hd : s.ds = .dStatus)
    (h : s.frameReceived = some i) : exec i s = .next s.statusStep := by
  rw [exec_of_decodeRx hv (decodeRx_of_frameReceived h), State.receive, if_pos hd]
  rfl

/-- The received row in `FB`: elsewhere the classification (R211). -/
theorem exec_frameReceived_classify {s : State} {i : Instr} (hv : s.cfg.valid = true) (hd : s.ds ≠ .dStatus)
    (h : s.frameReceived = some i) : exec i s = .next s.classifyStep := by
  rw [exec_of_decodeRx hv (decodeRx_of_frameReceived h), State.receive, if_neg hd]
  rfl

/-! ### Sent frames -/

/-- The row of the frame at `D_BUILD` builds it (R160). -/
theorem exec_frameToBuild {s : State} {i : Instr} (hc : s.cmd ≠ 0x10#8) (h : s.frameToBuild = some i) :
    exec i s = .next s.buildStep := by
  unfold State.frameToBuild at h
  unfold State.buildStep
  rw [if_neg hc]
  unfold decodeTx at h ⊢
  split_ifs at h ⊢ <;> cases h <;> rfl

theorem frameToPoll_eq (s : State) : s.frameToPoll = some .poll := by
  simp [State.frameToPoll, decodeTx, Except.toOption]

/-- A poll starts with the poll row (R94, R136). -/
theorem exec_frameToPoll {s : State} {i : Instr} (hp : s.polling = true) (h : s.frameToPoll = some i) :
    exec i s = .next s.exchangeStep := by
  rw [frameToPoll_eq] at h
  cases h
  rw [State.exchangeStep, if_pos hp]
  rfl

theorem polling_of_dWaitPoll {s : State} (h : s.ds = .dWaitPoll) : s.polling = true := by simp [State.polling, h]

theorem directStep_clsfy {s : State} (h : s.cmd = 0x04#8) : s.directStep = s.classifyStep := by
  simp [State.directStep, State.running, h, decodeOp, Except.toOption]

/-- At every point where the block executes a frame row, the row does what the step does there. -/
theorem exec_fetchFrame {s : State} {i : Instr} (hv : s.cfg.valid = true) (h : s.fetchFrame = some i) :
    exec i s = .next s.tick := by
  unfold State.fetchFrame at h
  split at h
  case isFalse => cases h
  case isTrue hbp =>
    have ht : s.tick = s.idlePhaseStep := by simp only [State.tick, hbp.2]
    rw [ht]
    unfold State.idlePhaseStep
    cases hd : s.ds <;> rw [hd] at h <;> dsimp only at h ⊢
    case dIdle =>
      split_ifs at h with hc
      rw [directStep_clsfy hc]
      exact exec_frameReceived_classify hv (by simp [hd]) h
    case dBuild =>
      split_ifs at h with hc
      exact exec_frameToBuild hc h
    case dExchange =>
      split_ifs at h with hc
      exact exec_frameToPoll hc h
    case dStatus =>
      split_ifs at h
      exact exec_frameReceived_status hv hd h
    case dWaitPoll => exact exec_frameToPoll (polling_of_dWaitPoll hd) h
    case dWaitClassify => exact exec_frameReceived_classify hv (by simp [hd]) h
    all_goals cases h

/-- Settles O9: the frame row executed at a point of `fetchFrame` is the operation's own step, and elsewhere the block
executes no row. -/
theorem frameMoveIsTick : Obligations.FrameMoveIsTick := by
  intro s hv _
  unfold blockMove
  split
  · next h => exact exec_fetchFrame hv h
  · rfl

/-! ### What a step executes -/

theorem decodeOp_of_decode {c : Cfg} {v : Byte} {i : Instr} (h : decode c .hostop [v] = .ok (i, [])) :
    decodeOp v = .ok i := by
  revert h
  simp only [decode]
  cases decodeOp v with
  | ok j => exact fun h => congrArg Except.ok (congrArg Prod.fst (Except.ok.inj h))
  | error e => exact nofun

/-- Settles O7: with the block idle it is the Host's turn, and a mnemonic line is `exec` of what its byte decodes to. -/
theorem stepRunsOperation : Obligations.StepRunsOperation := by
  intro s v rest i hv hb hh hd
  have hstep : step s = hostOp v { s with host := rest, hostWaits := false } := by
    simp [step, guardedTurn, turn, hostMove, hv, hb, hh]
  rw [hstep, hostOp, decodeOp_of_decode hd]

/-- While the Host waits and no reset input is next, the block moves. -/
theorem step_of_waiting {s : State} (hv : s.cfg.valid = true) (hb : s.busy = true) (hw : s.hostWaits = true)
    (hh : s.host.head? ≠ some .blockReset) : step s = blockMove s := by
  simp only [step, guardedTurn, hv, turn, hb, hw, and_self, if_true, waitingTurn]
  split
  · next h => simp [h] at hh
  · rfl

theorem decodeTx_of_decode {s : State} {i : Instr} (h : decode s.cfg .frameTx (s.fbBytes 0 3) = .ok (i, [])) :
    decodeTx s.cfg (s.fbAt 0) s.frameCid = .ok i := by
  have hd : decode s.cfg .frameTx (s.fbBytes 0 3) = (decodeTx s.cfg (s.fbAt 0) s.frameCid).map (·, []) := rfl
  rw [hd] at h
  cases hx : decodeTx s.cfg (s.fbAt 0) s.frameCid with
  | ok j => rw [hx] at h; exact congrArg Except.ok (congrArg Prod.fst (Except.ok.inj h))
  | error e => rw [hx] at h; exact nomatch h

theorem frameReceived_of_decode {s : State} {i : Instr} (h : decode s.cfg .frameRx (s.fbBytes 0 3) = .ok (i, [])) :
    s.frameReceived = some i := by
  have hd : decode s.cfg .frameRx (s.fbBytes 0 3) = (decodeRx s.cfg (s.fbAt 0) s.frameCid).map (·, []) := rfl
  rw [hd] at h
  unfold State.frameReceived
  cases hx : decodeRx s.cfg (s.fbAt 0) s.frameCid with
  | ok j => rw [hx] at h; exact congrArg some (congrArg Prod.fst (Except.ok.inj h))
  | error e => rw [hx] at h; exact nomatch h

theorem frameToBuild_of_decode {s : State} {i : Instr} (hi : i ≠ .poll)
    (h : decode s.cfg .frameTx (s.fbBytes 0 3) = .ok (i, [])) : s.frameToBuild = some i := by
  unfold State.frameToBuild
  rw [decodeTx_of_decode h]
  cases i
  case poll => exact absurd rfl hi
  all_goals rfl

/-- Settles O8: at each of these points `fetchFrame` is the row the header decodes to, and the waiting Host leaves the move
to the block. -/
theorem stepRunsFrame : Obligations.StepRunsFrame := by
  intro s i hv hb hp hw hh hpoint
  have hfetch : s.fetchFrame = some i := by
    unfold State.fetchFrame
    rw [if_pos ⟨hb, hp⟩]
    obtain ⟨hd, hc, hi, hi'⟩ | ⟨hd, hi⟩ | ⟨hd, rfl⟩ := hpoint
    · rw [hd]; dsimp only
      rw [if_neg hc, frameToBuild_of_decode hi hi']
    · obtain ⟨hd, hc⟩ | hd | ⟨hd, hc⟩ := hd <;> rw [hd] <;> dsimp only
      · rw [if_neg hc, frameReceived_of_decode hi]
      · rw [frameReceived_of_decode hi]
      · rw [if_pos hc, frameReceived_of_decode hi]
    · obtain hd | ⟨hd, hc⟩ := hd <;> rw [hd] <;> dsimp only
      · rw [frameToPoll_eq]
      · rw [if_pos (by simp [State.polling, hc]), frameToPoll_eq]
  rw [step_of_waiting hv hb hw hh, blockMove, hfetch]

end Sys2Proof.Machine
end

section
/-! SUPPORT. What `exec` answers, one lemma per format; and the coherent states, kept by every step of the block, every
operation and every action of the Host (R23, R24, R25, R29, R135, R262). -/
namespace Sys2Proof.Machine

/-! ### What `exec` answers -/

theorem exec_of_decodeOp {v : Byte} {i : Instr} (s : State) (h : decodeOp v = .ok i) :
    exec i s = operate v (runsExchange v) s := by
  iterate 9
    obtain ⟨rfl, rfl⟩ | ⟨-, h⟩ := row_of_ite h
    · rfl
  exact nomatch h

/-- Every host operation has its opcode (R115). -/
theorem exists_decodeOp {i : Instr} (h : i.format = .hostop) : ∃ v, decodeOp v = .ok i := by
  cases i
  case xchgRr => exact ⟨0x01#8, rfl⟩
  case xchgPoll => exact ⟨0x02#8, rfl⟩
  case rdyq => exact ⟨0x03#8, rfl⟩
  case clsfy => exact ⟨0x04#8, rfl⟩
  case waitn => exact ⟨0x05#8, rfl⟩
  case sreq => exact ⟨0x10#8, rfl⟩
  case afsend => exact ⟨0x11#8, rfl⟩
  case afsendx => exact ⟨0x12#8, rfl⟩
  case afretrx => exact ⟨0x13#8, rfl⟩
  all_goals cases h

theorem operate_cases {v : Byte} {exchanges : Bool} {s t : State} (h : operate v exchanges s = .next t) :
    s.busy = false ∧ s.cfg.valid = true ∧ t = runToDone s.allowance (s.beginOp v) := by
  unfold operate State.startFault at h
  cases hb : s.busy <;> cases hv : s.cfg.valid <;> simp only [hb, hv, if_true, Bool.false_eq_true, if_false] at h
  case false.true =>
    split at h
    · cases h
    · exact ⟨rfl, rfl, (Host.Outcome.next.inj h).symm⟩
  all_goals cases h

/-- A host operation that answers: it was started at rest and ran from its `CMD` write (R28). -/
theorem exec_hostop_cases {i : Instr} {v : Byte} {s t : State} (hv : decodeOp v = .ok i) (h : exec i s = .next t) :
    s.busy = false ∧ s.cfg.valid = true ∧ t = runToDone s.allowance (s.beginOp v) :=
  operate_cases ((exec_of_decodeOp s hv).symm.trans h)

theorem exec_frameRx_eq {i : Instr} (s : State) (h : i.format = .frameRx) :
    ∃ v len id, exec i s = .next (s.receive v len id) := by
  cases i
  case noMessage | afDataRequestSrsp | afDataRequestExtSrsp | afDataStoreSrsp | afDataRetrieveSrsp | afDataConfirm |
    afIncomingMsg | afIncomingMsgExt | zdoStateChangeInd | zdoEndDeviceAnnceInd | zdoLeaveInd =>
    exact ⟨_, _, _, rfl⟩
  all_goals cases h

/-! ### The control registers of a coherent state -/

/-- The part of `State.Coherent` that speaks of `BUSY`, `DONE`, `SEL`, `PH` and `DS`. -/
structure Control (s : State) : Prop where
  rest : s.busy = false → s.ph = .idle ∧ s.ds = .dIdle
  sel : s.sel = s.ph.selected
  exchange : s.ph ≠ .idle → s.ds = .dExchange ∨ s.ds = .dWaitPoll
  done : s.done = true → s.busy = false
  ds : s.ds ≠ .dDone

theorem coherent_iff (s : State) : s.Coherent ↔
    s.cfg.valid = true ∧ Memory.wf s.cfg.cap s.fb = true ∧ Memory.wf s.cfg.xcap s.xm = true ∧ Control s := by
  constructor
  · rintro ⟨hv, hfb, hxm, hrest, hsel, hexch, hdone, hds⟩
    exact ⟨hv, hfb, hxm, hrest, Bool.eq_iff_iff.mpr hsel, hexch, hdone, hds⟩
  · rintro ⟨hv, hfb, hxm, hrest, hsel, hexch, hdone, hds⟩
    exact ⟨hv, hfb, hxm, hrest, Bool.eq_iff_iff.mp hsel, hexch, hdone, hds⟩

/-- What a step between exchanges leads to is coherent, as far as control goes. -/
theorem Proceeds.control {u t : State} {D : DState → Prop} (h : Proceeds u D t) (hb : u.busy = true)
    (hd : u.done = false) (hp : u.ph = .idle) (hs : u.sel = false) (hD : ¬ D .dDone) : Control t := by
  obtain h | ⟨d, hDd, h⟩ := h
  · have hph := h.ph.trans hp
    exact ⟨fun _ => ⟨hph, h.ds⟩, by rw [hph, h.sel.elim (·.trans hs) id]; rfl, fun h' => absurd hph h',
      fun _ => h.busy, by simp [h.ds]⟩
  · have hph := h.ph.trans hp
    exact ⟨fun h' => by simp [h.busy, hb] at h', by rw [hph, h.sel, hs]; rfl, fun h' => absurd hph h',
      fun h' => by simp [h.done, hd] at h', fun h' => hD (h' ▸ h.ds ▸ hDd)⟩

theorem control_tick {s : State} (hb : s.busy = true) (h : Control s) : Control s.tick := by
  have hdone : s.done = false := by simpa [hb] using h.done
  cases tick_cases hb with
  | exchange hx ht =>
    exact ⟨fun h' => by simp [ht.busy, hb] at h', ht.sel h.sel, fun _ => ht.ds ▸ hx.elim h.exchange id,
      fun h' => by simp [ht.done, hdone] at h', ht.ds ▸ h.ds⟩
  | between hp ht =>
    obtain ⟨u, hu, ht⟩ := ht
    obtain ⟨-, -, hub, hud, hup, hus, -⟩ := hu.control
    exact ht.control (hub.trans hb) (hud.trans hdone) (hup.trans hp) (by rw [hus, h.sel, hp]; rfl) id
  | ended hp ht =>
    have hsel : s.sel = false := by obtain hp | hp := hp <;> rw [h.sel, hp] <;> rfl
    exact ht.control hb hdone rfl hsel id

/-- An operation starts at one of three dispatcher states (R174). -/
theorem startState_cases (v : Byte) :
    startState v = .dExchange ∨ startState v = .dValidate ∨ startState v = .dIdle := by
  unfold startState
  split <;> decide

theorem control_beginOp {s : State} (v : Byte) (hp : s.ph = .idle) (hs : s.sel = false) : Control (s.beginOp v) := by
  refine ⟨nofun, by rw [beginOp_sel, beginOp_ph, hs, hp]; rfl, fun h => absurd hp h, nofun, ?_⟩
  obtain hd | hd | hd := startState_cases v <;> rw [beginOp_ds, hd] <;> exact nofun

/-! ### The coherent states -/

/-- Whatever one step of the block does: at most one of `Writes`, and nothing else to the registers of `Held`. -/
theorem tick_writes {s : State} (hb : s.busy = true) : ∃ u, Writes s u ∧ Held u s.tick := by
  cases tick_cases hb with
  | exchange _ ht => exact ⟨s, .nothing, ht.held⟩
  | between _ ht => obtain ⟨u, hu, ht⟩ := ht; exact ⟨u, hu, ht.held⟩
  | ended _ ht => exact ⟨s, .nothing, (held_toPh s .idle).trans ht.held⟩

theorem Writes.xm_wf {s u : State} (h : Writes s u) (hx : Memory.wf s.cfg.xcap s.xm = true) :
    Memory.wf u.cfg.xcap u.xm = true := by
  cases h with
  | stored => exact xmPut_wf s _ _ hx
  | _ => exact hx

theorem coherent_tick {s : State} (hb : s.busy = true) (h : s.Coherent) : s.tick.Coherent := by
  obtain ⟨hv, hfb, hxm, hc⟩ := (coherent_iff s).mp h
  obtain ⟨u, hu, ht⟩ := tick_writes hb
  have hcfg : s.tick.cfg = s.cfg := (kept_tick s).cfg
  obtain ⟨hucfg, -, -, -, -, -, hufb⟩ := hu.control
  refine (coherent_iff _).mpr ⟨hcfg ▸ hv, ht.fb (by rw [hucfg, hufb]; exact hfb), ?_, control_tick hb hc⟩
  rw [ht.xm, hcfg, ← hucfg]
  exact hu.xm_wf hxm

theorem coherent_beginOp {s : State} (v : Byte) (hb : s.busy = false) (h : s.Coherent) : (s.beginOp v).Coherent := by
  obtain ⟨hv, hfb, hxm, hc⟩ := (coherent_iff s).mp h
  have hp := (hc.rest hb).1
  exact (coherent_iff _).mpr ⟨hv, hfb, hxm, control_beginOp v hp (by rw [hc.sel, hp]; rfl)⟩

theorem coherent_operate {v : Byte} {exchanges : Bool} {s t : State} (h : s.Coherent)
    (ht : operate v exchanges s = .next t) : t.Coherent := by
  obtain ⟨hb, -, rfl⟩ := operate_cases ht
  exact runToDone_induction (fun _ => coherent_tick) _ (coherent_beginOp v hb h)

theorem coherent_blockMove {s t : State} (hb : s.busy = true) (h : s.Coherent) (ht : blockMove s = .next t) :
    t.Coherent := by
  rw [frameMoveIsTick s h.1 hb] at ht
  exact Host.Outcome.next.inj ht ▸ coherent_tick hb h

theorem coherent_hostOp {v : Byte} {s t : State} (h : s.Coherent) (ht : hostOp v s = .next t) : t.Coherent := by
  have h' : State.Coherent { s with hostWaits := true } := h
  unfold hostOp at ht
  split at ht
  · next hd => exact coherent_operate h' ((exec_of_decodeOp _ hd).symm.trans ht)
  · exact coherent_operate h' ht

theorem coherent_hostStart {v : Byte} {s t : State} (h : s.Coherent) (ht : hostStart v s = .next t) : t.Coherent := by
  unfold hostStart State.startFault at ht
  cases hb : s.busy
  · rw [hb, if_neg (by simp)] at ht
    split at ht
    · cases ht
    · exact Host.Outcome.next.inj ht ▸ coherent_beginOp v hb h
  · rw [hb, if_pos rfl] at ht
    cases ht

theorem coherent_writeReg {s : State} (reg : Nat) (v : Word64) (h : s.Coherent) : (s.writeReg reg v).Coherent := by
  unfold State.writeReg
  split <;> exact h

theorem coherent_fbPut {s : State} (a : Nat) (bs : List Byte) (h : s.Coherent) : (s.fbPut a bs).Coherent := by
  obtain ⟨hv, hfb, hxm, hc⟩ := (coherent_iff s).mp h
  exact (coherent_iff _).mpr ⟨hv, fbPut_wf s a bs hfb, hxm, ⟨hc.rest, hc.sel, hc.exchange, hc.done, hc.ds⟩⟩

theorem coherent_xmPut {s : State} (a : Nat) (bs : List Byte) (h : s.Coherent) : (s.xmPut a bs).Coherent := by
  obtain ⟨hv, hfb, hxm, hc⟩ := (coherent_iff s).mp h
  exact (coherent_iff _).mpr ⟨hv, hfb, xmPut_wf s a bs hxm, ⟨hc.rest, hc.sel, hc.exchange, hc.done, hc.ds⟩⟩

theorem coherent_blockReset {s : State} (h : s.Coherent) : s.blockReset.Coherent :=
  have ⟨hv, hfb, hxm, _⟩ := h
  (coherent_iff _).mpr ⟨hv, hfb, hxm, ⟨fun _ => ⟨rfl, rfl⟩, rfl, fun h => absurd rfl h, nofun, nofun⟩⟩

/-- Every action of the Host (R305). -/
theorem coherent_hostMove {act : HostAct} {s t : State} (h : s.Coherent) (ht : hostMove act s = .next t) :
    t.Coherent := by
  cases act <;> simp only [hostMove, hostSet, hostGet, hostFbWrite, hostXmWrite, hostFbRead, hostXmRead] at ht
  case op => exact coherent_hostOp h ht
  case start => exact coherent_hostStart h ht
  case set reg v =>
    split_ifs at ht
    · exact coherent_hostStart h ht
    · exact Host.Outcome.next.inj ht ▸ coherent_writeReg reg v h
  case get => split_ifs at ht; exact Host.Outcome.next.inj ht ▸ h
  case fbw => split_ifs at ht; exact Host.Outcome.next.inj ht ▸ coherent_fbPut _ _ h
  case xmw => split_ifs at ht; exact Host.Outcome.next.inj ht ▸ coherent_xmPut _ _ h
  case fbr => split_ifs at ht; exact Host.Outcome.next.inj ht ▸ h
  case xmr => split_ifs at ht; exact Host.Outcome.next.inj ht ▸ h
  case letRun =>
    split_ifs at ht with hb
    · exact coherent_blockMove hb h ht
    · exact Host.Outcome.next.inj ht ▸ h
  case blockReset => exact Host.Outcome.next.inj ht ▸ coherent_blockReset h
  case busInit => exact Host.Outcome.next.inj ht ▸ h

theorem coherent_waitingTurn {s t : State} (hb : s.busy = true) (h : s.Coherent) (ht : waitingTurn s = .next t) :
    t.Coherent := by
  unfold waitingTurn at ht
  split at ht
  · next rest _ =>
    exact Host.Outcome.next.inj ht ▸ coherent_blockReset (s := { s with host := rest }) h
  · exact coherent_blockMove hb h ht

/-- Settles O3, by whose turn it is: the block's tick keeps the coherent states, and so does each action of the Host. -/
theorem stepKeepsCoherent : Obligations.StepKeepsCoherent := by
  intro s t h ht
  simp only [step, guardedTurn, h.1, turn] at ht
  split at ht
  · next hb => exact coherent_waitingTurn hb.1 h ht
  · split at ht
    · next act rest _ => exact coherent_hostMove (s := { s with host := rest, hostWaits := false }) h ht
    · split at ht
      · next hb => exact coherent_blockMove hb h ht
      · exact Host.Outcome.next.inj ht ▸ h

end Sys2Proof.Machine
end

section
/-! SUPPORT. What an instruction leaves unchanged (R22, R29, R31, R32, R35, R36, R37): what one step keeps, what a run
keeps, and the frame rows apart. -/
namespace Sys2Proof.Machine

/-! ### The frame rows -/

/-- A sent row writes `FB` and, for the two sends, `TSEQ` (R30). -/
theorem exec_frameTx_cases {i : Instr} {s t : State} (hf : i.format = .frameTx) (h : exec i s = .next t) :
    Held s t ∨ (((∃ len, i = .afDataRequest len) ∨ i = .afDataRequestExt) ∧ Held { s with tseq := s.tseq + 1 } t) := by
  cases i
  case poll => exact Host.Outcome.next.inj h ▸ .inl (shifts_pollStart s).held
  case afDataRequest len => exact Host.Outcome.next.inj h ▸ .inr ⟨.inl ⟨len, rfl⟩, (goes_buildRequest s len).held⟩
  case afDataRequestExt => exact Host.Outcome.next.inj h ▸ .inr ⟨.inr rfl, (goes_buildSendExt s).held⟩
  case afDataStore len => exact Host.Outcome.next.inj h ▸ .inl (goes_buildStore s len).held
  case afDataRetrieve => exact Host.Outcome.next.inj h ▸ .inl (goes_buildRetrieve s).held
  all_goals cases hf

/-- A received row is a response at `D_STATUS` and a classification elsewhere (R163, R211). -/
theorem exec_frameRx_cases {i : Instr} {s t : State} (hf : i.format = .frameRx) (h : exec i s = .next t) :
    (s.ds = .dStatus ∧ (Held s t ∨ (s.cmd = 0x13#8 ∧ Held s.storeRetrieved t))) ∨
      (s.ds ≠ .dStatus ∧ ∃ v len id, Held (s.classifyAs v len id) t) := by
  obtain ⟨v, len, id, he⟩ := exec_frameRx_eq s hf
  obtain rfl := Host.Outcome.next.inj (he.symm.trans h)
  unfold State.receive
  split
  · next hd =>
    have hr : Responds s (fun _ => True) (s.respond len.toNat) := respond_responds _ (fun _ => trivial) trivial
    exact .inl ⟨hd, hr.imp Proceeds.held (And.imp_right Proceeds.held)⟩
  · next hd => exact .inr ⟨hd, v, len, id, interpret_held s v len id⟩

theorem kept_exec {i : Instr} {s t : State} (h : exec i s = .next t) : Kept s t := by
  cases hf : i.format with
  | hostop =>
    obtain ⟨v, hv⟩ := exists_decodeOp hf
    obtain ⟨-, -, rfl⟩ := exec_hostop_cases hv h
    have hbegin : Kept s (s.beginOp v) := .of_eq ⟨rfl, rfl, rfl, rfl, rfl, rfl, rfl, rfl, rfl, rfl⟩
    exact hbegin.trans (kept_runToDone _ _)
  | frameRx =>
    obtain ⟨v, len, id, he⟩ := exec_frameRx_eq s hf
    obtain rfl := Host.Outcome.next.inj (he.symm.trans h)
    unfold State.receive
    split
    · exact kept_respond s _
    · exact kept_interpret s v len id
  | frameTx =>
    cases i
    case poll => exact Host.Outcome.next.inj h ▸ kept_pollStart s
    case afDataRequest len => exact Host.Outcome.next.inj h ▸ kept_buildRequest s len
    case afDataRequestExt => exact Host.Outcome.next.inj h ▸ kept_buildSendExt s
    case afDataStore len => exact Host.Outcome.next.inj h ▸ kept_buildStore s len
    case afDataRetrieve => exact Host.Outcome.next.inj h ▸ kept_buildRetrieve s
    all_goals cases hf

/-- Settles O15: each format's meaning is among what `Kept` has been proved of. -/
theorem traceOnlyGrows : Obligations.TraceOnlyGrows := fun _ _ _ h => (kept_exec h).tr

/-! ### The registers with an owner, along one step and along a run -/

section
variable {s : State} (hb : s.busy = true)
include hb

theorem tick_cmd : s.tick.cmd = s.cmd := by
  obtain ⟨u, hu, ht⟩ := tick_writes hb
  obtain ⟨-, hcmd, -⟩ := hu.control
  exact ht.cmd.trans hcmd

/-- Only `RDYQ` samples into `MSGW` (R145). -/
theorem tick_msgw (hc : s.cmd ≠ 0x03#8) : s.tick.msgw = s.msgw := by
  obtain ⟨u, hu, ht⟩ := tick_writes hb
  rw [ht.msgw]
  cases hu with
  | ready b h => exact absurd h hc
  | _ => rfl

/-- Only `CLSFY` and a wait classify (R36). -/
theorem tick_k (hc : s.cmd ≠ 0x04#8) (hd : s.ds ≠ .dWaitClassify) : s.tick.k = s.k := by
  obtain ⟨u, hu, ht⟩ := tick_writes hb
  rw [ht.k]
  cases hu with
  | classified v len id h => exact (h.elim hd hc).elim
  | _ => rfl

/-- Only the building of a frame writes `TSEQ` (R30). -/
theorem tick_tseq (hd : s.ds = .dBuild → s.buildStep.tseq = s.tseq) : s.tick.tseq = s.tseq := by
  obtain ⟨u, hu, ht⟩ := tick_writes hb
  rw [ht.tseq]
  cases hu with
  | built h => exact hd h
  | _ => rfl

/-- Only `AFRETRX` writes `XM` (R196). -/
theorem tick_xm (hc : s.cmd ≠ 0x13#8) : s.tick.xm = s.xm := by
  obtain ⟨u, hu, ht⟩ := tick_writes hb
  rw [ht.xm]
  cases hu with
  | stored h => exact absurd h hc
  | _ => rfl

end

theorem xmAt_congr {s t : State} (h : t.xm = s.xm) (a : Nat) : t.xmAt a = s.xmAt a := by
  simp only [State.xmAt, h]

/-- A chunk lies inside the buffer of the operands, wherever `XOFF` stands (R191, R196). -/
theorem storeRetrieved_xmAt (s : State) {a : Nat}
    (ha : a < s.a.dptr.toNat ∨ s.a.dptr.toNat + s.a.dlen.toNat ≤ a) : s.storeRetrieved.xmAt a = s.xmAt a := by
  apply xmPut_xmAt_outside
  rw [fbBytes_length, State.chunkLen]
  omega

theorem tick_xmAt {s : State} (hb : s.busy = true) {a : Nat}
    (ha : a < s.a.dptr.toNat ∨ s.a.dptr.toNat + s.a.dlen.toNat ≤ a) : s.tick.xmAt a = s.xmAt a := by
  obtain ⟨u, hu, ht⟩ := tick_writes hb
  rw [xmAt_congr ht.xm]
  cases hu with
  | stored => exact storeRetrieved_xmAt s ha
  | _ => rfl

/-- What each step of an operation keeps, the operation keeps. -/
theorem runToDone_keeps {α : Type} (f : State → α) {s : State}
    (h : ∀ t, t.busy = true → t.cmd = s.cmd → t.a = s.a → f t.tick = f t) (n : Nat) : f (runToDone n s) = f s := by
  obtain ⟨-, -, hf⟩ := runToDone_induction (P := fun t => t.cmd = s.cmd ∧ t.a = s.a ∧ f t = f s)
    (fun t hb ⟨hc, ha, hf⟩ => ⟨(tick_cmd hb).trans hc, (kept_tick t).a.trans ha, (h t hb hc ha).trans hf⟩) n
    ⟨rfl, rfl, rfl⟩
  exact hf

theorem cmd_ne_of_decodeOp {v w : Byte} {i j : Instr} (hv : decodeOp v = .ok i) (hw : decodeOp w = .ok j)
    (h : i ≠ j) : v ≠ w := fun he => h (Except.ok.inj (hv.symm.trans (he ▸ hw)))

/-! ### `MSGW` -/

theorem exec_msgw {i : Instr} {s t : State} (h : exec i s = .next t) (hi : i ≠ .rdyq) : t.msgw = s.msgw := by
  cases hf : i.format with
  | hostop =>
    obtain ⟨v, hv⟩ := exists_decodeOp hf
    obtain ⟨-, -, rfl⟩ := exec_hostop_cases hv h
    have hne : v ≠ 0x03#8 := cmd_ne_of_decodeOp hv rfl hi
    exact runToDone_keeps State.msgw (fun t hb hc _ => tick_msgw hb (hc ▸ hne)) _
  | frameTx =>
    obtain h | ⟨-, h⟩ := exec_frameTx_cases hf h
    · exact h.msgw
    · exact h.msgw
  | frameRx =>
    obtain ⟨-, h | ⟨-, h⟩⟩ | ⟨-, v, len, id, h⟩ := exec_frameRx_cases hf h
    · exact h.msgw
    · exact h.msgw
    · exact h.msgw

/-- Settles O20: the operands and the Host's own fields by `Kept`, `MSGW` because only `RDYQ` samples into it. -/
theorem operandFrame : Obligations.OperandFrame := by
  intro i s t h
  obtain ⟨ha, hackm, hautowait, hverbose, hcfg, hbusUp, hhost, hwaits, hrd, -⟩ := kept_exec h
  exact ⟨ha, hackm, hautowait, hverbose, hcfg, hbusUp, hhost, hwaits, hrd, exec_msgw h⟩

/-! ### `XM` -/

theorem exec_xmAt {i : Instr} {s t : State} (h : exec i s = .next t) {a : Nat}
    (ha : a < s.a.dptr.toNat ∨ s.a.dptr.toNat + s.a.dlen.toNat ≤ a) : t.xmAt a = s.xmAt a := by
  cases hf : i.format with
  | hostop =>
    obtain ⟨v, hv⟩ := exists_decodeOp hf
    obtain ⟨-, -, rfl⟩ := exec_hostop_cases hv h
    exact runToDone_keeps (s := s.beginOp v) (fun t => t.xmAt a) (fun t hb _ hta => tick_xmAt hb (hta ▸ ha)) _
  | frameTx =>
    obtain h | ⟨-, h⟩ := exec_frameTx_cases hf h
    · exact xmAt_congr h.xm a
    · exact xmAt_congr h.xm a
  | frameRx =>
    obtain ⟨-, h | ⟨-, h⟩⟩ | ⟨-, v, len, id, h⟩ := exec_frameRx_cases hf h
    · exact xmAt_congr h.xm a
    · exact (xmAt_congr h.xm a).trans (storeRetrieved_xmAt s ha)
    · exact xmAt_congr h.xm a

theorem exec_xm {i : Instr} {s t : State} (h : exec i s = .next t) (hi : i ≠ .afretrx)
    (hr : ¬ (i.format = .frameRx ∧ s.ds = .dStatus ∧ s.cmd = 0x13#8)) : t.xm = s.xm := by
  cases hf : i.format with
  | hostop =>
    obtain ⟨v, hv⟩ := exists_decodeOp hf
    obtain ⟨-, -, rfl⟩ := exec_hostop_cases hv h
    have hne : v ≠ 0x13#8 := cmd_ne_of_decodeOp hv rfl hi
    exact runToDone_keeps State.xm (fun t hb hc _ => tick_xm hb (hc ▸ hne)) _
  | frameTx =>
    obtain h | ⟨-, h⟩ := exec_frameTx_cases hf h
    · exact h.xm
    · exact h.xm
  | frameRx =>
    obtain ⟨hd, h | ⟨hc, -⟩⟩ | ⟨-, v, len, id, h⟩ := exec_frameRx_cases hf h
    · exact h.xm
    · exact absurd ⟨hf, hd, hc⟩ hr
    · exact h.xm

/-- Settles O22: a retrieved chunk is the only write to `XM`, and it lies inside the buffer. -/
theorem bulkMemoryFrame : Obligations.BulkMemoryFrame :=
  fun _ _ _ _ h => ⟨fun _ ha => exec_xmAt h ha, fun hi hr => exec_xm h hi hr⟩

/-! ### The classifier registers -/

/-- The dispatcher states of a notification wait (R166). -/
def DState.waits : DState → Bool
  | .dWaitSample | .dWaitPoll | .dWaitClassify | .dWaitDelay => true
  | .dIdle | .dValidate | .dBuild | .dExchange | .dStatus | .dChunk | .dDone => false

/-- An operation that opens no wait stands in none. -/
theorem tick_waits {s : State} (hb : s.busy = true) (ha : ¬ s.Awaits) (hd : s.ds.waits = false) :
    s.tick.ds.waits = false := by
  have leads {d : DState} (h : s.LeadsTo d) : d.waits = false := by
    cases d <;> simp only [State.LeadsTo] at h
    case dWaitSample => exact absurd (h.resolve_left ha) (by rintro hs; simp [hs, DState.waits] at hd)
    case dWaitPoll => simp [h, DState.waits] at hd
    case dWaitClassify => simp [h, DState.waits] at hd
    case dWaitDelay => obtain h | h := h <;> simp [h, DState.waits] at hd
    all_goals rfl
  have proceeds {u : State} (h : Proceeds u s.LeadsTo s.tick) : s.tick.ds.waits = false := by
    obtain h | ⟨d, hd, h⟩ := h
    · rw [h.ds]; rfl
    · rw [h.ds]; exact leads hd
  cases tick_cases hb with
  | exchange _ ht => rw [ht.ds]; exact hd
  | between _ ht => obtain ⟨u, -, ht⟩ := ht; exact proceeds ht
  | ended _ ht => exact proceeds ht

theorem tick_awaits {s : State} (hb : s.busy = true) : s.tick.Awaits ↔ s.Awaits := by
  simp only [State.Awaits, State.waitFlag, tick_cmd hb, (kept_tick s).a, (kept_tick s).autowait]

/-- An operation that opens no wait and is not `CLSFY` classifies nothing. -/
theorem runToDone_k {s : State} (hc : s.cmd ≠ 0x04#8) (ha : ¬ s.Awaits) (hd : s.ds.waits = false) (n : Nat) :
    (runToDone n s).k = s.k := by
  have hrun := runToDone_induction
    (P := fun t => t.k = s.k ∧ t.cmd ≠ 0x04#8 ∧ ¬ t.Awaits ∧ t.ds.waits = false)
    (fun t hb ⟨hk, hc, ha, hd⟩ => ⟨(tick_k hb hc (by rintro h; simp [h, DState.waits] at hd)).trans hk,
      tick_cmd hb ▸ hc, mt (tick_awaits hb).mp ha, tick_waits hb ha hd⟩) n ⟨rfl, hc, ha, hd⟩
  exact hrun.1

/-- The host operations that may not classify, by opcode. -/
theorem not_awaits_of_classifierFrame {i : Instr} {v : Byte} {s : State} (hv : decodeOp v = .ok i)
    (h : i = .xchgRr ∨ i = .xchgPoll ∨ i = .rdyq ∨ i = .afretrx ∨ (i = .sreq ∧ s.waitFlag = false) ∨
      ((i = .afsend ∨ i = .afsendx) ∧ s.autowait = false)) :
    v ≠ 0x04#8 ∧ ¬ (s.beginOp v).Awaits := by
  have hv' : [v] = encode s.cfg i := (encode_of_decodeOp s.cfg hv).symm
  have hwf : (s.beginOp v).waitFlag = s.waitFlag := rfl
  unfold State.Awaits
  rw [beginOp_cmd, beginOp_autowait, hwf]
  obtain rfl | rfl | rfl | rfl | ⟨rfl, hw⟩ | ⟨rfl | rfl, hw⟩ := h <;> cases hv' <;> simp [*]

/-- Settles O23: only a classification writes the classifier registers, and the instructions listed reach none. -/
theorem classifierFrame : Obligations.ClassifierFrame := by
  intro i s t _ h hi
  cases hf : i.format with
  | hostop =>
    obtain ⟨v, hv⟩ := exists_decodeOp hf
    obtain ⟨-, -, rfl⟩ := exec_hostop_cases hv h
    rw [hf] at hi
    obtain ⟨hc, ha⟩ := not_awaits_of_classifierFrame (s := s) hv (by simpa using hi)
    refine runToDone_k hc ha ?_ _
    obtain hd | hd | hd := startState_cases v <;> rw [beginOp_ds, hd] <;> rfl
  | frameTx =>
    obtain h | ⟨-, h⟩ := exec_frameTx_cases hf h
    · exact h.k
    · exact h.k
  | frameRx =>
    obtain ⟨-, h | ⟨-, h⟩⟩ | ⟨hd, -⟩ := exec_frameRx_cases hf h
    · exact h.k
    · exact h.k
    · obtain hi | ⟨-, hi⟩ | rfl | rfl | rfl | rfl | ⟨rfl, -⟩ | ⟨rfl | rfl, -⟩ := hi
      · exact nomatch hf.symm.trans hi
      · exact absurd hi hd
      all_goals cases hf

end Sys2Proof.Machine
end

section
/-! SUPPORT. `TSEQ` along an operation (R30, R170, R190): the header at `D_BUILD` says which frame is built, a send
builds its own once, and no frame built afterwards takes `TSEQ`. -/
namespace Sys2Proof.Machine

/-! ### What is built behind a header -/

theorem id_of_decodeTx_request {c : Cfg} {len l : Byte} {id : Word16} (h : decodeTx c len id = .ok (.afDataRequest l)) :
    id = c.cid.afDataRequest := by
  obtain ⟨-, h⟩ | ⟨-, h⟩ := row_of_ite h
  · cases h
  obtain ⟨hid, -⟩ | ⟨-, h⟩ := row_of_ite h
  · exact hid
  iterate 3
    obtain ⟨-, h⟩ | ⟨-, h⟩ := row_of_ite h
    · cases h
  exact nomatch h

theorem id_of_decodeTx_requestExt {c : Cfg} {len : Byte} {id : Word16} (h : decodeTx c len id = .ok .afDataRequestExt) :
    id = c.cid.afDataRequestExt := by
  iterate 2
    obtain ⟨-, h⟩ | ⟨-, h⟩ := row_of_ite h
    · cases h
  obtain ⟨⟨hid, -⟩, -⟩ | ⟨-, h⟩ := row_of_ite h
  · exact hid
  iterate 2
    obtain ⟨-, h⟩ | ⟨-, h⟩ := row_of_ite h
    · cases h
  exact nomatch h

/-- The four request ids, pairwise as the sends need them (R101). -/
theorem request_ids_of_valid {c : Cfg} (h : c.valid = true) :
    c.cid.afDataRequest ≠ c.cid.afDataRequestExt ∧ c.cid.afDataStore ≠ c.cid.afDataRequest ∧
      c.cid.afDataStore ≠ c.cid.afDataRequestExt ∧ c.cid.afDataRetrieve ≠ c.cid.afDataRequest ∧
      c.cid.afDataRetrieve ≠ c.cid.afDataRequestExt := by
  have hnodup := (List.nodup_append.mp (ids_nodup_of_valid h)).1
  simp only [CommandIds.requests, List.nodup_cons, List.mem_cons, not_or] at hnodup
  obtain ⟨⟨h12, h13, h14, -⟩, ⟨h23, h24, -⟩, -⟩ := hnodup
  exact ⟨h12, Ne.symm h13, Ne.symm h23, Ne.symm h14, Ne.symm h24⟩

/-- The frame at `D_BUILD` takes no `TSEQ`: the Host's own, or a chunk's. -/
def State.BuildsPlain (s : State) : Prop :=
  s.cmd = 0x10#8 ∨ s.frameCid = s.cfg.cid.afDataStore ∨ s.frameCid = s.cfg.cid.afDataRetrieve

theorem buildStep_tseq_plain {s : State} (hv : s.cfg.valid = true) (h : s.BuildsPlain) :
    s.buildStep.tseq = s.tseq := by
  obtain ⟨-, hs, hsx, hr, hrx⟩ := request_ids_of_valid hv
  unfold State.buildStep
  split
  · rfl
  · next hc =>
    have hid : s.frameCid ≠ s.cfg.cid.afDataRequest ∧ s.frameCid ≠ s.cfg.cid.afDataRequestExt := by
      obtain h | h := h.resolve_left hc <;> rw [h]
      · exact ⟨hs, hsx⟩
      · exact ⟨hr, hrx⟩
    split
    · next hd => exact absurd (id_of_decodeTx_request hd) hid.1
    · next hd => exact absurd (id_of_decodeTx_requestExt hd) hid.2
    · exact (goes_buildStore s _).held.tseq
    · exact (goes_buildRetrieve s).held.tseq
    · rfl

theorem buildStep_tseq_request {s : State} (hc : s.cmd ≠ 0x10#8) (h0 : s.fbAt 0 ≠ 0#8)
    (hid : s.frameCid = s.cfg.cid.afDataRequest) : s.buildStep.tseq = s.tseq + 1 := by
  have hd : decodeTx s.cfg (s.fbAt 0) s.frameCid = .ok (.afDataRequest (s.fbAt 0)) := by simp [decodeTx, h0, hid]
  rw [State.buildStep, if_neg hc, hd]
  rfl

theorem buildStep_tseq_requestExt {s : State} (hc : s.cmd ≠ 0x10#8) (h0 : s.fbAt 0 ≠ 0#8)
    (hl : s.fbAt 0 = BitVec.ofNat 8 s.cfg.schema.sendExt.fixed) (hid : s.frameCid = s.cfg.cid.afDataRequestExt)
    (hv : s.cfg.valid = true) : s.buildStep.tseq = s.tseq + 1 := by
  have hne := (request_ids_of_valid hv).1.symm
  have hd : decodeTx s.cfg (s.fbAt 0) s.frameCid = .ok .afDataRequestExt := by
    rw [decodeTx, if_neg (fun h => h0 h.1), if_neg (hid ▸ hne), if_pos ⟨hid, hl⟩]
  rw [State.buildStep, if_neg hc, hd]
  rfl

/-- The header that `startBuild` writes. -/
theorem startBuild_header {s : State} (hv : s.cfg.valid = true) (len : Nat) (id : Word16) :
    (s.startBuild len id).fbAt 0 = BitVec.ofNat 8 len ∧ (s.startBuild len id).frameCid = id :=
  putHeader_header s _ id (by have := le_cap_of_valid hv; omega)

theorem ofNat_ne_zero {n : Nat} (h : 1 ≤ n) (hn : n < 256) : BitVec.ofNat 8 n ≠ 0#8 := by
  intro h'
  have := congrArg BitVec.toNat h'
  simp only [BitVec.toNat_ofNat] at this
  omega

/-! ### After the frames that take `TSEQ` -/

/-- No frame of the rest of this operation takes `TSEQ`. -/
structure PlainFromHere (s : State) : Prop where
  control : Control s
  valid : s.cfg.valid = true
  validate : s.ds = .dValidate → s.cmd ≠ 0x11#8 ∧ s.cmd ≠ 0x12#8
  build : s.ds = .dBuild → s.BuildsPlain

theorem validateStep_plain {s : State} (hv : s.cfg.valid = true) (hc : s.cmd ≠ 0x11#8 ∧ s.cmd ≠ 0x12#8)
    (h : s.validateStep.ds = .dBuild) : s.validateStep.BuildsPlain := by
  revert h
  unfold State.validateStep
  split
  · next hr =>
    split
    · exact nofun
    · exact fun _ => .inl (cmd_of_running hr rfl)
  · unfold State.startWait
    split <;> exact nofun
  · next hr => exact absurd (cmd_of_running hr rfl) hc.1
  · next hr => exact absurd (cmd_of_running hr rfl) hc.2
  · split
    · exact nofun
    · exact fun _ => .inr (.inr (startBuild_header (s := { s with xoff := 0 }) hv _ _).2)
  · exact nofun

theorem chunkStep_plain {s : State} (hv : s.cfg.valid = true) (h : s.chunkStep.ds = .dBuild) :
    s.chunkStep.BuildsPlain := by
  revert h
  unfold State.chunkStep
  split
  · exact fun _ => .inr (.inl (startBuild_header hv _ _).2)
  · exact fun _ => .inr (.inr (startBuild_header hv _ _).2)
  · exact nofun

/-- `D_BUILD` is entered from `D_VALIDATE` and from `D_CHUNK`, `D_VALIDATE` not at all (R174). -/
theorem tick_ds_build {s : State} (hb : s.busy = true) (hc : Control s) :
    s.tick.ds ≠ .dValidate ∧ (s.tick.ds = .dBuild →
      (s.ds = .dValidate ∧ s.tick = s.validateStep) ∨ (s.ds = .dChunk ∧ s.tick = s.chunkStep)) := by
  have leads (h : s.LeadsTo .dBuild) :
      (s.ds = .dValidate ∧ s.tick = s.validateStep) ∨ (s.ds = .dChunk ∧ s.tick = s.chunkStep) := by
    obtain ⟨hp, hd | hd⟩ := h
    · exact .inl ⟨hd, by simp only [State.tick, State.idlePhaseStep, hp, hd]⟩
    · exact .inr ⟨hd, by simp only [State.tick, State.idlePhaseStep, hp, hd]⟩
  have proceeds {u : State} (h : Proceeds u s.LeadsTo s.tick) :
      s.tick.ds ≠ .dValidate ∧ (s.tick.ds = .dBuild → s.LeadsTo .dBuild) := by
    obtain h | ⟨d, hd, h⟩ := h <;> rw [h.ds]
    · exact ⟨nofun, nofun⟩
    · exact ⟨fun he => (he ▸ hd : s.LeadsTo .dValidate).elim, fun he => he ▸ hd⟩
  cases tick_cases hb with
  | exchange hx ht =>
    have hd : s.ds = .dExchange ∨ s.ds = .dWaitPoll := hx.elim hc.exchange id
    rw [ht.ds]
    obtain hd | hd := hd <;> rw [hd] <;> exact ⟨nofun, nofun⟩
  | between _ ht => obtain ⟨u, -, ht⟩ := ht; exact (proceeds ht).imp_right (leads ∘ ·)
  | ended _ ht => exact (proceeds ht).imp_right (leads ∘ ·)

theorem plainFromHere_tick {s : State} (hb : s.busy = true) (h : PlainFromHere s) : PlainFromHere s.tick := by
  obtain ⟨hnv, hbuild⟩ := tick_ds_build hb h.control
  refine ⟨control_tick hb h.control, (kept_tick s).cfg ▸ h.valid, fun hd => absurd hd hnv, fun hd => ?_⟩
  obtain ⟨hds, ht⟩ | ⟨hds, ht⟩ := hbuild hd <;> rw [ht] at hd ⊢
  · exact validateStep_plain h.valid (h.validate hds) hd
  · exact chunkStep_plain h.valid hd

/-- From there on `TSEQ` stands. -/
theorem runToDone_tseq {s : State} (h : PlainFromHere s) (n : Nat) : (runToDone n s).tseq = s.tseq := by
  have hrun := runToDone_induction (P := fun t => PlainFromHere t ∧ t.tseq = s.tseq)
    (fun t hb ⟨ht, he⟩ => ⟨plainFromHere_tick hb ht,
      (tick_tseq hb fun hd => buildStep_tseq_plain ht.valid (ht.build hd)).trans he⟩) n ⟨h, rfl⟩
  exact hrun.2

/-! ### The sends -/

/-- A send that passes validation: two steps, the header and the frame, then `TSEQ` stands (R170, R190, R30). -/
theorem runToDone_tseq_send {b u : State} (hb : b.busy = true) (hc : Control b) (hv : b.cfg.valid = true)
    (ht : b.tick = u) (hu : u.busy = true) (hup : u.ph = .idle) (hud : u.ds = .dBuild) (n : Nat) :
    (runToDone (n + 2) b).tseq = u.buildStep.tseq := by
  have hbuild : u.tick = u.buildStep := by simp only [State.tick, State.idlePhaseStep, hup, hud]
  have hds : u.buildStep.ds = .dExchange := (buildStep_goes u).ds
  have hcu : Control u := ht ▸ control_tick hb hc
  have hvu : u.cfg.valid = true := by rw [← ht, (kept_tick b).cfg]; exact hv
  have hplain : PlainFromHere u.buildStep :=
    ⟨hbuild ▸ control_tick hu hcu, by rw [← hbuild, (kept_tick u).cfg]; exact hvu, fun h => by simp [hds] at h,
      fun h => by simp [hds] at h⟩
  rw [runToDone_succ hb, ht, runToDone_succ hu, hbuild, runToDone_tseq hplain]

/-- An operation is allowed far more than these two steps (entry 5). -/
theorem exists_allowance (s : State) : ∃ n, s.allowance = n + 2 := by
  have h : 8 * 16 ≤ s.allowance := Nat.mul_le_mul (Nat.le_add_left ..) (Nat.le_add_left ..)
  exact ⟨s.allowance - 2, by omega⟩

theorem dlen_le_of_afsendCheck {s : State} (h : s.afsendCheck = none) : s.a.dlen.toNat ≤ s.cfg.afMaxData := by
  unfold State.afsendCheck at h
  split_ifs at h with _ _ hlen
  omega

section
variable {b : State} (hc : Control b) (hb : b.busy = true) (hv : b.cfg.valid = true) (hp : b.ph = .idle)
  (hd : b.ds = .dValidate)
include hc hb hv hp hd

omit hc hb hv in
theorem tick_validate : b.tick = b.validateStep := by simp only [State.tick, State.idlePhaseStep, hp, hd]

theorem afsend_tseq (hcmd : b.cmd = 0x11#8) (n : Nat) :
    (runToDone (n + 2) b).tseq = if b.afsendCheck = none then b.tseq + 1 else b.tseq := by
  have hr : b.running = some .afsend := by rw [State.running, hcmd]; rfl
  cases hk : b.afsendCheck with
  | some k =>
    have ht : b.tick = b.failWith k := by simp only [tick_validate hp hd, State.validateStep, hr, hk]
    rw [runToDone_succ hb, ht, runToDone_of_not_busy rfl]
    rfl
  | none =>
    have ht : b.tick = b.startBuild (requestFixed + b.a.dlen.toNat) b.cfg.cid.afDataRequest := by
      simp only [tick_validate hp hd, State.validateStep, hr, hk]
    obtain ⟨hh, hid⟩ := startBuild_header hv (requestFixed + b.a.dlen.toNat) b.cfg.cid.afDataRequest
    have h0 : BitVec.ofNat 8 (requestFixed + b.a.dlen.toNat) ≠ 0#8 := by
      have hlen := dlen_le_of_afsendCheck hk
      have hmax := afMaxData_of_valid hv
      have hnmax := nmax_lt_of_valid hv
      exact ofNat_ne_zero (by simp only [requestFixed]; omega) (by omega)
    rw [← hh] at h0
    rw [runToDone_tseq_send hb hc hv ht hb hp rfl, buildStep_tseq_request (by simp [State.startBuild, hcmd]) h0 hid]
    rfl

theorem afsendx_tseq (hcmd : b.cmd = 0x12#8) (n : Nat) :
    (runToDone (n + 2) b).tseq = if b.afsendxCheck = none then b.tseq + 1 else b.tseq := by
  have hr : b.running = some .afsendx := by rw [State.running, hcmd]; rfl
  cases hk : b.afsendxCheck with
  | some k =>
    have ht : b.tick = b.failWith k := by simp only [tick_validate hp hd, State.validateStep, hr, hk]
    rw [runToDone_succ hb, ht, runToDone_of_not_busy rfl]
    rfl
  | none =>
    have ht : b.tick =
        { b with begun := false }.startBuild b.cfg.schema.sendExt.fixed b.cfg.cid.afDataRequestExt := by
      simp only [tick_validate hp hd, State.validateStep, hr, hk]
    obtain ⟨hh, hid⟩ := startBuild_header (s := { b with begun := false }) hv b.cfg.schema.sendExt.fixed
      b.cfg.cid.afDataRequestExt
    have h0 : BitVec.ofNat 8 b.cfg.schema.sendExt.fixed ≠ 0#8 := by
      obtain ⟨hpos, hmax⟩ := sendExt_fixed_of_valid hv
      have hnmax := nmax_lt_of_valid hv
      exact ofNat_ne_zero hpos (by omega)
    rw [← hh] at h0
    rw [runToDone_tseq_send hb hc hv ht hb hp rfl,
      buildStep_tseq_requestExt (by simp [State.startBuild, hcmd]) h0 hh hid hv]
    rfl

end

/-! ### The instructions -/

/-- Everything but the two sends and the rows of their frames. -/
theorem exec_tseq_plain {i : Instr} {s t : State} (hq : i.format = .hostop → s.Quiet) (h : exec i s = .next t)
    (h1 : i ≠ .afsend) (h2 : i ≠ .afsendx) (h3 : ∀ len, i ≠ .afDataRequest len) (h4 : i ≠ .afDataRequestExt) :
    t.tseq = s.tseq := by
  cases hf : i.format with
  | hostop =>
    obtain ⟨v, hv⟩ := exists_decodeOp hf
    obtain ⟨-, hvalid, rfl⟩ := exec_hostop_cases hv h
    obtain ⟨-, hp, -, hs⟩ := hq hf
    have hbuild : (s.beginOp v).ds ≠ .dBuild := by
      obtain hd | hd | hd := startState_cases v <;> rw [beginOp_ds, hd] <;> exact nofun
    exact runToDone_tseq (s := s.beginOp v) ⟨control_beginOp v hp hs, hvalid,
      fun _ => ⟨cmd_ne_of_decodeOp hv rfl h1, cmd_ne_of_decodeOp hv rfl h2⟩, fun hd => absurd hd hbuild⟩ _
  | frameTx =>
    obtain h | ⟨⟨len, hi⟩ | hi, -⟩ := exec_frameTx_cases hf h
    · exact h.tseq
    · exact absurd hi (h3 len)
    · exact absurd hi h4
  | frameRx =>
    obtain ⟨-, h | ⟨-, h⟩⟩ | ⟨-, v, len, id, h⟩ := exec_frameRx_cases hf h
    · exact h.tseq
    · exact h.tseq
    · exact h.tseq

/-- Settles O21: a send that passes validation builds its own frame once, and nothing else takes `TSEQ`. -/
theorem sequenceFrame : Obligations.SequenceFrame := by
  intro i s t hq h
  obtain ⟨n, hn⟩ := exists_allowance s
  refine ⟨?_, ?_, fun h1 h2 h3 h4 => exec_tseq_plain hq h h1 h2 h3 h4⟩
  · rintro rfl
    obtain ⟨-, hv, rfl⟩ := exec_hostop_cases (v := 0x11#8) rfl h
    obtain ⟨-, hp, -, hs⟩ := hq rfl
    rw [hn]
    exact afsend_tseq (b := s.beginOp 0x11#8) (control_beginOp _ hp hs) rfl hv hp rfl rfl n
  · rintro rfl
    obtain ⟨-, hv, rfl⟩ := exec_hostop_cases (v := 0x12#8) rfl h
    obtain ⟨-, hp, -, hs⟩ := hq rfl
    rw [hn]
    exact afsendx_tseq (b := s.beginOp 0x12#8) (control_beginOp _ hp hs) rfl hv hp rfl rfl n

end Sys2Proof.Machine
end

section
/-! SUPPORT. Frames written field after field (R96, R102, R103). -/
namespace Sys2Proof.Machine

theorem memPut_append (n : Nat) (m : Memory) (a : Nat) (xs ys : List Byte) :
    memPut n m a (xs ++ ys) = memPut n (memPut n m a xs) (a + xs.length) ys := by
  induction xs generalizing m a with
  | nil => rfl
  | cons x xs ih =>
    rw [List.cons_append, memPut, memPut, ih, List.length_cons]
    congr 1
    omega

theorem fbPut_append (s : State) (a : Nat) (xs ys : List Byte) :
    s.fbPut a (xs ++ ys) = (s.fbPut a xs).fbPut (a + xs.length) ys := by
  simp only [State.fbPut, memPut_append]

/-- Each field begins where the one before it ends, the first one at address `a` of `FB`. -/
def InRow : Nat → List (Nat × List Byte) → Prop
  | _, [] => True
  | a, f :: fs => hdr + f.1 = a ∧ InRow (a + f.2.length) fs

/-- Fields in a row are one write. -/
theorem putFields_in_row {s : State} {bs : List Byte} {fs : List (Nat × List Byte)} (h : InRow bs.length fs) :
    (s.fbPut 0 bs).putFields fs = s.fbPut 0 (bs ++ fs.flatMap Prod.snd) := by
  induction fs generalizing bs with
  | nil => rw [List.flatMap_nil, List.append_nil]; rfl
  | cons f fs ih =>
    obtain ⟨hf, hfs⟩ := h
    have hput : (s.fbPut 0 bs).putField f.1 f.2 = s.fbPut 0 (bs ++ f.2) := by
      rw [State.putField, hf, fbPut_append, Nat.zero_add]
    rw [putFields_cons, hput, ih (by rwa [List.length_append]), List.flatMap_cons, List.append_assoc]

/-- A frame built in `FB`: its bytes, and behind it what stood there. -/
theorem built_frame {s t : State} {len : Byte} {id : Word16} {fs : List (Nat × List Byte)} {frame : List Byte} {n : Nat}
    (hrow : InRow 3 fs) (hframe : [len, msb id, lsb id] ++ fs.flatMap Prod.snd = frame) (hn : frame.length = n)
    (hcap : n ≤ s.cfg.cap) (ht : t.fb = ((s.putHeader len id).putFields fs).fb) :
    t.fbBytes 0 n = frame ∧ ∀ a, n ≤ a → t.fbAt a = s.fbAt a := by
  have hput : (s.putHeader len id).putFields fs = s.fbPut 0 frame := hframe ▸ putFields_in_row hrow
  have hat (a : Nat) : t.fbAt a = (s.fbPut 0 frame).fbAt a := by simp only [State.fbAt, ht, hput]
  subst hn
  refine ⟨?_, fun a ha => (hat a).trans (fbPut_fbAt_outside s 0 frame (.inr (by omega)))⟩
  calc t.fbBytes 0 frame.length = (s.fbPut 0 frame).fbBytes 0 frame.length := by simp only [State.fbBytes, hat]
    _ = frame := fbPut_fbBytes s 0 frame (by omega)

theorem byteOf_eq {w : Nat} (v : BitVec w) (i : Nat) : byteOf v i = v.extractLsb' (8 * i) 8 := by
  apply BitVec.eq_of_toNat_eq
  simp [byteOf, BitVec.extractLsb'_toNat]

/-- Settles O42: header and payload are one write of R102's frame. -/
theorem sendDataRequestFrame : Obligations.SendDataRequestFrame := by
  intro s len hlen hcap
  have hlen' : BitVec.ofNat 8 (10 + (len.toNat - 10)) = len := by
    rw [show 10 + (len.toNat - 10) = len.toNat by omega, BitVec.ofNat_toNat, BitVec.setWidth_eq]
  refine ⟨s.buildRequest len, rfl, rfl, ?_⟩
  refine built_frame (fs := [(0, s.requestPayload (len.toNat - requestFixed))]) ⟨rfl, trivial⟩ ?_ ?_ hcap rfl
  · simp [State.sendDataFrame, State.requestPayload, requestFixed, hlen', byteOf_eq]
  · simp only [State.sendDataFrame, List.length_append, List.length_cons, List.length_nil, xmBytes_length]
    omega

/-- The fields of R103, from the first address behind the header to the last. -/
theorem sendExtFields_in_row {s : State} (h : s.cfg.schema = Config.layouts) : InRow 3 s.sendExtFields := by
  simp [State.sendExtFields, h, Config.layouts, fieldBytes, InRow, hdr]

theorem sendExtFields_bytes {s : State} (h : s.cfg.schema = Config.layouts) :
    [20#8, msb s.cfg.cid.afDataRequestExt, lsb s.cfg.cid.afDataRequestExt] ++ s.sendExtFields.flatMap Prod.snd =
      s.beginFrame := by
  have hpan : leBytes 2 0 = [0#8, 0#8] := by decide
  simp [State.sendExtFields, h, Config.layouts, fieldBytes, State.beginFrame, leBytes_one, leBytes_two, leBytes_eight,
    hpan]

/-- What the begin frame's row writes (R192). -/
theorem buildSendExt_eq (s : State) : s.buildSendExt = { s with
    fb := ((s.putHeader (BitVec.ofNat 8 s.cfg.schema.sendExt.fixed) s.cfg.cid.afDataRequestExt).putFields
      s.sendExtFields).fb,
    tseq := s.tseq + 1, ds := .dExchange } := by
  unfold State.buildSendExt
  rw [putFields_eq]
  rfl

/-- Settles O43: the ten fields of the default layout stand in a row behind the header. -/
theorem beginExtendedFrame : Obligations.BeginExtendedFrame := by
  intro s h hcap
  have hfixed : BitVec.ofNat 8 s.cfg.schema.sendExt.fixed = 20#8 := by rw [h]; rfl
  have hfb : s.buildSendExt.fb = ((s.putHeader 20#8 s.cfg.cid.afDataRequestExt).putFields s.sendExtFields).fb := by
    rw [buildSendExt_eq, hfixed]
  refine ⟨s.buildSendExt, rfl, ?_,
    built_frame (sendExtFields_in_row h) (sendExtFields_bytes h) rfl hcap hfb⟩
  rw [buildSendExt_eq]

end Sys2Proof.Machine
end

section
/-! SUPPORT. The Host port while `BUSY = 0`: the register map, the writes, and the two memories (R28 to R36, R39,
R61). -/
namespace Sys2Proof.Machine

/-- The map lists what a read of each number gives. -/
theorem registerMap_eq (s : State) :
    s.registerMap = (s.registerMap.map Prod.fst).map fun reg => (reg, s.readReg reg) := by
  have hexpv : (if s.expv = true then 1#64 else 0#64) = (BitVec.ofBool s.expv).setWidth 64 := by cases s.expv <;> rfl
  have hiter : BitVec.ofNat 64 (s.iter % 65536) = (BitVec.ofNat 16 s.iter).setWidth 64 := by
    apply BitVec.eq_of_toNat_eq
    simp
  unfold State.registerMap
  rw [hexpv, hiter]
  rfl

theorem readReg_of_mem {s : State} {reg : Nat} {v : Word64} (h : (reg, v) ∈ s.registerMap) : s.readReg reg = v := by
  rw [registerMap_eq, List.mem_map] at h
  obtain ⟨r, -, hr⟩ := h
  cases hr
  rfl

/-- The numbers of the register map (R39). -/
def registerNumbers : List Nat :=
  [0x00, 0x01, 0x02, 0x03, 0x04, 0x05, 0x06, 0x07, 0x08, 0x0A, 0x0B, 0x0C, 0x0D, 0x0E, 0x10, 0x18, 0x19, 0x1A, 0x1C,
    0x1E, 0x20, 0x24, 0x28, 0x2A, 0x2C, 0x2E, 0x30, 0x40, 0x41, 0x42, 0x44, 0x45, 0x46, 0x47, 0x48, 0x4A, 0x50, 0x58,
    0x59, 0x5A, 0x5C, 0x5E, 0x5F, 0x60, 0x61, 0x62, 0x64, 0x68, 0x6A, 0x6C, 0x6E, 0x70, 0x72, 0x73, 0x74]

theorem registerMap_fst (s : State) : s.registerMap.map Prod.fst = registerNumbers := rfl

theorem readReg_of_not_mem {s : State} {reg : Nat} (h : reg ∉ s.registerMap.map Prod.fst) : s.readReg reg = 0#64 := by
  rw [registerMap_fst] at h
  unfold State.readReg
  split
  case h_56 => rfl
  all_goals exact absurd (by decide) h

theorem stat_bits (s : State) :
    s.stat.getLsbD 0 = s.busy ∧ s.stat.getLsbD 1 = s.done ∧ s.stat.getLsbD 2 = s.msgw ∧ s.stat >>> 3 = 0#8 := by
  have h (m d b : Bool) :
      let x : Byte := 0#5 ++ BitVec.ofBool m ++ BitVec.ofBool d ++ BitVec.ofBool b
      x.getLsbD 0 = b ∧ x.getLsbD 1 = d ∧ x.getLsbD 2 = m ∧ x >>> 3 = 0#8 := by
    revert m d b; decide
  exact h s.msgw s.done s.busy

theorem ctrl_bits (s : State) :
    s.ctrl.getLsbD 0 = s.autowait ∧ s.ctrl.getLsbD 1 = s.verbose ∧ s.ctrl >>> 2 = 0#8 := by
  have h (v a : Bool) :
      let x : Byte := 0#6 ++ BitVec.ofBool v ++ BitVec.ofBool a
      x.getLsbD 0 = a ∧ x.getLsbD 1 = v ∧ x >>> 2 = 0#8 := by
    revert v a; decide
  exact h s.verbose s.autowait

/-- A number that no write reaches (entry 10). -/
theorem writeReg_of_not_mem {s : State} {reg : Nat} (v : Word64) (h : reg ∉ writableRegisters) :
    s.writeReg reg v = s := by
  have operands : s.a.write reg v = s.a := by
    unfold Operands.write
    split
    case h_15 => rfl
    all_goals exact absurd (by decide) h
  unfold State.writeReg
  split
  case h_4 => rw [operands]
  all_goals exact absurd (by decide) h

/-- The first dispatcher state, by opcode (R174). -/
theorem startState_eq_firstDs (v : Byte) : startState v = firstDs v := by
  unfold startState
  cases h : decodeOp v with
  | ok i =>
    have hv := encode_of_decodeOp Config.vectors h
    cases i <;> cases hv <;> rfl
  | error e =>
    have ne {w : Byte} {i : Instr} (hw : decodeOp w = .ok i) : v ≠ w := by
      rintro rfl
      rw [hw] at h
      cases h
    simp only [firstDs, ne (w := 0x01#8) rfl, ne (w := 0x02#8) rfl, ne (w := 0x05#8) rfl, ne (w := 0x10#8) rfl,
      ne (w := 0x11#8) rfl, ne (w := 0x12#8) rfl, ne (w := 0x13#8) rfl, or_self, if_false]

section
variable {s : State} (hb : s.busy = false)
include hb

theorem hostGet_idle (reg : Nat) : hostMove (.get reg) s = .next { s with hostRd := s.readReg reg } := by
  simp [hostMove, hostGet, hb]

theorem hostSet_idle {reg : Nat} (v : Word64) (hr : reg ≠ 0) :
    hostMove (.set reg v) s = .next (s.writeReg reg v) := by
  simp [hostMove, hostSet, hb, hr]

theorem hostStart_idle (v : Byte) (hv : s.cfg.valid = true) (hu : s.busUp = true) :
    hostMove (.start v) s = .next (s.beginOp v) := by
  simp [hostMove, hostStart, State.startFault, hb, hv, hu]

theorem hostFbWrite_idle {addr : Nat} {bs : List Byte} (h : addr + bs.length ≤ s.cfg.cap) :
    hostMove (.fbw addr bs) s = .next (s.fbPut addr bs) := by
  simp [hostMove, hostFbWrite, hb, Nat.not_lt.mpr h]

theorem hostXmWrite_idle {addr : Nat} {bs : List Byte} (h : addr + bs.length ≤ s.cfg.xcap) :
    hostMove (.xmw addr bs) s = .next (s.xmPut addr bs) := by
  simp [hostMove, hostXmWrite, hb, Nat.not_lt.mpr h]

end

/-- Settles O12, clause by clause: the register map, the bits of the two views, the writes, and the two memories. -/
theorem registerPort : Obligations.RegisterPort := by
  intro s hb
  refine ⟨fun reg v h => ?_, fun reg h => ?_, stat_bits s, ctrl_bits s, fun v => ?_, fun reg v h => ?_,
    fun hv hu v => ⟨?_, rfl⟩, fun addr bs h => ?_, fun addr bs h => ?_, fun addr h => ?_, fun addr h => ?_,
    fun addr bs h => ?_, fun addr bs h => ?_, fun addr h => ?_, fun addr h => ?_⟩
  · rw [hostGet_idle hb, readReg_of_mem h]
  · rw [hostGet_idle hb, readReg_of_not_mem h]
  · and_intros <;> exact hostSet_idle hb v (by decide)
  · have h0 : reg ≠ 0 := fun h0 => h (h0 ▸ by decide)
    rw [hostSet_idle hb v h0, writeReg_of_not_mem v h]
  · rw [hostStart_idle hb _ hv hu, ← startState_eq_firstDs]
    rfl
  · exact ⟨_, hostFbWrite_idle hb h, rfl, fbPut_fbBytes s addr bs h, fun _ ha => fbPut_fbAt_outside s addr bs ha⟩
  · exact ⟨_, hostXmWrite_idle hb h, rfl, xmPut_xmBytes s addr bs h, fun _ ha => xmPut_xmAt_outside s addr bs ha⟩
  · simp [hostMove, hostFbRead, hb, Nat.not_le.mpr h]
  · simp [hostMove, hostXmRead, hb, Nat.not_le.mpr h]
  · simp [hostMove, hostFbWrite, hb, h]
  · simp [hostMove, hostXmWrite, hb, h]
  · simp [hostMove, hostFbRead, hb, h]
  · simp [hostMove, hostXmRead, hb, h]

end Sys2Proof.Machine
end

section
/-! SUPPORT. What one step does to `PH`, to the Bus resets of the trace and to the expected id, said once (R133, R142,
R145, R163, R223, R260). -/
namespace Sys2Proof.Machine

/-! ### The phase (R133) -/

theorem Proceeds.ph {s t : State} {D : DState → Prop} (h : Proceeds s D t) : t.ph = s.ph := by
  obtain h | ⟨d, -, h⟩ := h
  · exact h.ph
  · exact h.ph

theorem interpret_ph (s : State) (v : Variant) (len : Byte) (id : Word16) : (s.interpret v len id).ph = s.ph := by
  unfold State.interpret State.afterClassify
  split
  · split
    · exact (matched_ends _ _).ph
    · rfl
  · split <;> rfl

theorem directStep_ph (s : State) : s.directStep.ph = s.ph := by
  unfold State.directStep
  split
  · rfl
  · exact interpret_ph s _ _ _
  · rfl

theorem respond_ph (s : State) (len : Nat) : (s.respond len).ph = s.ph := by
  obtain h | ⟨-, h⟩ := respond_responds (D := fun _ => True) (s := s) len (fun _ => trivial) trivial
  · exact h.ph
  · exact h.ph

/-- Between exchanges `PH` stays, but where one starts. -/
theorem idlePhaseStep_ph {s : State} (hx : s.ds ≠ .dExchange) (hw : s.ds ≠ .dWaitPoll) :
    s.idlePhaseStep.ph = s.ph := by
  unfold State.idlePhaseStep
  split
  case h_1 => exact directStep_ph s
  case h_2 => exact (validateStep_proceeds (D := fun _ => True) (fun _ => trivial) trivial).ph
  case h_3 => exact (buildStep_goes s).ph
  case h_4 h => exact absurd h hx
  case h_5 => exact respond_ph s _
  case h_6 => exact (goes_sampleStep s).ph
  case h_7 h => exact absurd h hw
  case h_8 => exact interpret_ph s _ _ _
  case h_9 => exact (delayStep_proceeds (D := fun _ => True) trivial).ph
  case h_10 => exact (chunkStep_proceeds (D := fun _ => True) trivial).ph
  case h_11 => rfl

theorem exchangeStep_ph (s : State) : s.exchangeStep.ph = .selectAsserted ∨ s.exchangeStep.ph = .error := by
  unfold State.exchangeStep State.requestStart
  split
  · exact .inl rfl
  · split
    · exact .inr rfl
    · exact .inl rfl

theorem awaitStep_ph (s : State) (level : Bool) (b : Bound) (next : Phase) (k : ResultKind) :
    (s.awaitStep level b next k).ph = next ∨ (s.awaitStep level b next k).ph = s.ph ∨
      (s.awaitStep level b next k).ph = .error := by
  unfold State.awaitStep
  split
  · exact .inl rfl
  · split
    · exact .inr (.inl rfl)
    · split
      · exact .inr (.inr rfl)
      · exact .inr (.inl rfl)

/-- The received length decides between the payload and the end of the exchange (R134, R139 b). -/
theorem headerReceived_cases (s : State) :
    s.headerReceived = s.exchangeError .phyOtherError ∨
      (s.frameLen = 0 ∧ s.headerReceived = (s.setSelect false).toPh .complete) ∨
      (s.frameLen ≠ 0 ∧ s.headerReceived = s.toPh .rxPayload) := by
  unfold State.headerReceived
  split
  · exact .inl rfl
  · split
    · next h => exact .inr (.inl ⟨h, rfl⟩)
    · next h => exact .inr (.inr ⟨h, rfl⟩)

theorem completeStep_cases (s : State) :
    s.completeStep = s.exchangeError .incorrectSrsp ∨
      (s.mismatched = false ∧ s.completeStep = (s.toPh .idle).afterExchange) := by
  unfold State.completeStep
  split
  · exact .inl rfl
  · next h => exact .inr ⟨Bool.eq_false_iff.mpr h, rfl⟩

theorem afterExchange_ph (s : State) : s.afterExchange.ph = s.ph :=
  (afterExchange_proceeds (D := fun _ => True) (fun _ => trivial) trivial (fun _ => trivial)).ph

theorem loadSpin_ph (s : State) (b : Bound) : (s.loadSpin b).ph = s.ph := by cases b <;> rfl

theorem tick_ph_follows (s : State) : s.ph.follows s.tick.ph = true := by
  cases hp : s.ph with
  | idle =>
    have ht : s.tick = s.idlePhaseStep := by simp only [State.tick, hp]
    rw [ht]
    by_cases hd : s.ds = .dExchange ∨ s.ds = .dWaitPoll
    · have hx : s.idlePhaseStep = s.exchangeStep := by obtain hd | hd := hd <;> simp only [State.idlePhaseStep, hd]
      rw [hx]
      obtain h | h := exchangeStep_ph s <;> rw [h] <;> rfl
    · obtain ⟨hx, hw⟩ := not_or.mp hd
      rw [idlePhaseStep_ph hx hw, hp]
      rfl
  | selectAsserted => simp only [State.tick, hp, State.selectStep, loadSpin_ph]; rfl
  | awaitingReady =>
    have ht : s.tick = s.readyStep := by simp only [State.tick, hp]
    obtain h | h | h := awaitStep_ph s true s.cfg.tCs .transferring .chipSelectTimeout
    · rw [ht, State.readyStep, h]; rfl
    · rw [ht, State.readyStep, h, hp]; rfl
    · rw [ht, State.readyStep, h]; rfl
  | transferring => simp only [State.tick, hp, State.sendStep, loadSpin_ph]; rfl
  | awaitingReadyRelease =>
    have ht : s.tick = s.releaseStep := by simp only [State.tick, hp]
    obtain h | h | h := awaitStep_ph s false s.cfg.tSrsp .rxHeader .srspTimeout
    · rw [ht, State.releaseStep, h]; rfl
    · rw [ht, State.releaseStep, h, hp]; rfl
    · rw [ht, State.releaseStep, h]; rfl
  | rxHeader =>
    have ht : s.tick = (s.transfer 0 hdr).headerReceived := by simp only [State.tick, hp, State.headerStep]
    obtain h | ⟨-, h⟩ | ⟨-, h⟩ := headerReceived_cases (s.transfer 0 hdr) <;> rw [ht, h] <;> rfl
  | rxPayload => simp only [State.tick, hp]; rfl
  | complete =>
    have ht : s.tick = s.completeStep := by simp only [State.tick, hp]
    obtain h | ⟨-, h⟩ := completeStep_cases s
    · rw [ht, h]; rfl
    · rw [ht, h, afterExchange_ph]; rfl
  | error => simp only [State.tick, hp]; rfl

/-- Settles O13: the transitions phase by phase, and behind the header the length decides. -/
theorem phaseDiagram : Obligations.PhaseDiagram := by
  refine fun s => ⟨tick_ph_follows s, fun hp he => ?_⟩
  have ht : s.tick = (s.transfer 0 hdr).headerReceived := by simp only [State.tick, hp, State.headerStep]
  rw [ht] at he ⊢
  obtain h | ⟨h0, h⟩ | ⟨h0, h⟩ := headerReceived_cases (s.transfer 0 hdr)
  · exact absurd (by rw [h]; rfl) he
  · simp [h, h0]
  · simp [h, h0]

/-! ### Bus resets along a step (R142, R260) -/

/-- `t` follows `s` with no Bus reset between them. -/
def NoReset (s t : State) : Prop := ∃ es, t.tr = s.tr ++ es ∧ Event.busReset ∉ es

/-- `t` follows `s` with one Bus reset between them, and nothing on the Bus behind it. -/
def ResetOnce (s t : State) : Prop :=
  ∃ pre post, t.tr = s.tr ++ (pre ++ Event.busReset :: post) ∧ Event.busReset ∉ pre ∧ ∀ e ∈ post, e.isBus = false

theorem NoReset.of_eq {s t : State} (h : t.tr = s.tr) : NoReset s t := ⟨[], by rw [h, List.append_nil], by simp⟩

theorem NoReset.refl (s : State) : NoReset s s := .of_eq rfl

theorem NoReset.trans {s t u : State} (h : NoReset s t) (g : NoReset t u) : NoReset s u := by
  obtain ⟨es, ht, hes⟩ := h
  obtain ⟨fs, hu, hfs⟩ := g
  exact ⟨es ++ fs, by rw [hu, ht, List.append_assoc], by simp [hes, hfs]⟩

theorem NoReset.resetOnce {s t u : State} (h : NoReset s t) (g : ResetOnce t u) : ResetOnce s u := by
  obtain ⟨es, ht, hes⟩ := h
  obtain ⟨pre, post, hu, hpre, hpost⟩ := g
  exact ⟨es ++ pre, post, by rw [hu, ht]; simp, by simp [hes, hpre], hpost⟩

/-- An operation ends with no event on the Bus (R262, R266). -/
theorem diagEvents_bus (s : State) (v : Byte) : ∀ e ∈ s.diagEvents v, e.isBus = false := by
  unfold State.diagEvents
  split
  · exact List.forall_mem_singleton.mpr rfl
  · exact nofun

theorem busReset_not_mem {es : List Event} (h : ∀ e ∈ es, e.isBus = false) : Event.busReset ∉ es :=
  fun hm => Bool.noConfusion (h _ hm)

theorem noReset_endOp (s : State) (v : Byte) : NoReset s (s.endOp v) :=
  ⟨s.diagEvents v, rfl, busReset_not_mem (diagEvents_bus s v)⟩

theorem resetOnce_exchangeError (s : State) (k : ResultKind) : ResetOnce s (s.exchangeError k) :=
  ⟨[], [], rfl, by simp, by simp⟩

theorem ResetOnce.endOp {s t : State} (h : ResetOnce s t) (v : Byte) : ResetOnce s (t.endOp v) := by
  obtain ⟨pre, post, ht, hpre, hpost⟩ := h
  refine ⟨pre, post ++ t.diagEvents v, by simp [ht], hpre, fun e he => ?_⟩
  obtain he | he := List.mem_append.mp he
  · exact hpost e he
  · exact diagEvents_bus t v e he

/-- The events of an operation that resets the Bus once, last. -/
theorem ResetOnce.events {s t : State} (h : ResetOnce s t) :
    ∃ es, t.tr = s.tr ++ es ∧ resetCount es = 1 ∧ lastBus es = some .busReset := by
  obtain ⟨pre, post, ht, hpre, hpost⟩ := h
  have hbus : post.filter Event.isBus = [] := List.filter_eq_nil_iff.mpr fun e he => by simp [hpost e he]
  refine ⟨_, ht, ?_, ?_⟩
  · simp [resetCount, List.count_eq_zero_of_not_mem hpre, List.count_eq_zero_of_not_mem (busReset_not_mem hpost)]
  · rw [lastBus, List.filter_append, List.filter_cons_of_pos (by rfl), hbus, List.getLast?_concat]

theorem NoReset.events {s t : State} (h : NoReset s t) : ∃ es, t.tr = s.tr ++ es ∧ resetCount es = 0 := by
  obtain ⟨es, ht, hes⟩ := h
  exact ⟨es, ht, List.count_eq_zero_of_not_mem hes⟩

/-! ### Steps that reset nothing and expect the same id -/

/-- `EXP`, `EXPV` and the Bus resets of `s` are those of `t`. -/
structure Steady (s t : State) : Prop where
  exp : t.exp = s.exp
  expv : t.expv = s.expv
  tr : NoReset s t

theorem Steady.refl (s : State) : Steady s s := ⟨rfl, rfl, .refl s⟩

theorem Steady.trans {s t u : State} (h : Steady s t) (g : Steady t u) : Steady s u :=
  ⟨g.exp.trans h.exp, g.expv.trans h.expv, h.tr.trans g.tr⟩

theorem steady_fbPut (s : State) (a : Nat) (bs : List Byte) : Steady s (s.fbPut a bs) := ⟨rfl, rfl, .of_eq rfl⟩
theorem steady_toPh (s : State) (p : Phase) : Steady s (s.toPh p) := ⟨rfl, rfl, .of_eq rfl⟩
theorem steady_toDs (s : State) (d : DState) : Steady s (s.toDs d) := ⟨rfl, rfl, .of_eq rfl⟩
theorem steady_endOp (s : State) (v : Byte) : Steady s (s.endOp v) := ⟨rfl, rfl, noReset_endOp s v⟩
theorem steady_setSelect (s : State) (b : Bool) : Steady s (s.setSelect b) := ⟨rfl, rfl, [_], rfl, by simp⟩
theorem steady_sampled (s : State) : Steady s s.sampled := ⟨rfl, rfl, [_], rfl, by simp⟩
theorem steady_classifyAs (s : State) (v : Variant) (len : Byte) (id : Word16) : Steady s (s.classifyAs v len id) :=
  ⟨rfl, rfl, [_], rfl, by simp⟩

theorem steady_loadSpin (s : State) (b : Bound) : Steady s (s.loadSpin b) := by
  cases b <;> exact ⟨rfl, rfl, .of_eq rfl⟩

theorem steady_transfer (s : State) (off n : Nat) : Steady s (s.transfer off n) := by
  unfold State.transfer
  split
  · exact .refl s
  · exact ⟨rfl, rfl, [_], rfl, by simp⟩

theorem steady_putFields (s : State) (fs : List (Nat × List Byte)) : Steady s (s.putFields fs) := by
  rw [putFields_eq]
  exact ⟨rfl, rfl, .of_eq rfl⟩

theorem steady_startBuild (s : State) (len : Nat) (id : Word16) : Steady s (s.startBuild len id) :=
  ⟨rfl, rfl, .of_eq rfl⟩

theorem steady_startWait (s : State) (id : Word16) (tmo : Byte) : Steady s (s.startWait id tmo) := by
  unfold State.startWait
  split
  · exact .trans (t := { s with wid := id, iter := 0 }) ⟨rfl, rfl, .of_eq rfl⟩ (steady_endOp _ _)
  · exact ⟨rfl, rfl, .of_eq rfl⟩

theorem steady_validateStep (s : State) : Steady s s.validateStep := by
  unfold State.validateStep
  split
  · split
    · exact steady_endOp s _
    · exact steady_startBuild s _ _
  · exact steady_startWait s _ _
  · split
    · exact steady_endOp s _
    · exact steady_startBuild s _ _
  · split
    · exact steady_endOp s _
    · exact ⟨rfl, rfl, .of_eq rfl⟩
  · split
    · exact steady_endOp s _
    · exact ⟨rfl, rfl, .of_eq rfl⟩
  · exact steady_endOp s _

theorem steady_buildStep (s : State) : Steady s s.buildStep := by
  unfold State.buildStep
  split
  · exact steady_toDs s _
  · split
    · exact ⟨rfl, rfl, .of_eq rfl⟩
    · rw [buildSendExt_eq]; exact ⟨rfl, rfl, .of_eq rfl⟩
    · exact (steady_fbPut s _ _).trans ((steady_putFields _ _).trans (steady_toDs _ _))
    · exact (steady_fbPut s _ _).trans ((steady_putFields _ _).trans (steady_toDs _ _))
    · exact steady_toDs s _

theorem steady_chunkStep (s : State) : Steady s s.chunkStep := by
  unfold State.chunkStep
  split
  · exact steady_startBuild s _ _
  · exact steady_startBuild s _ _
  · exact steady_endOp s _

theorem steady_sampleStep (s : State) : Steady s s.sampleStep := (steady_sampled s).trans (steady_toDs _ _)

theorem steady_delayStep (s : State) : Steady s s.delayStep := by
  have delay : Steady s { s.emit (.delay s.cfg.pollMs) with iter := s.iter - 1 } := ⟨rfl, rfl, [_], rfl, by simp⟩
  unfold State.delayStep
  split
  · exact delay.trans (steady_endOp _ _)
  · exact delay.trans (steady_toDs _ .dWaitSample)

theorem steady_sreqWait (s : State) : Steady s s.sreqWait := by
  unfold State.sreqWait
  split
  · exact steady_startWait s _ _
  · exact steady_endOp s _

theorem steady_afterExchange (s : State) : Steady s s.afterExchange := by
  unfold State.afterExchange
  split
  · exact steady_toDs s _
  · split
    · split
      · exact steady_toDs s _
      · exact steady_sreqWait s
    · exact steady_toDs s _
    · exact steady_toDs s _
    · exact steady_toDs s _
    · exact steady_endOp s _

/-! ### Steps that interpret a frame (R163, R211) -/

/-- The interpretation of a frame writes none of `FB`, `EXP`, `EXPV` and asks the Module nothing; if it resets the Bus,
the operation ends. -/
structure Digests (s t : State) : Prop where
  fb : t.fb = s.fb
  exp : t.exp = s.exp
  expv : t.expv = s.expv
  ready : t.ready = s.ready
  rx : t.rx = s.rx
  bus : NoReset s t ∨ (t.busy = false ∧ ResetOnce s t)

theorem Digests.of_eq {s t : State}
    (h : t.fb = s.fb ∧ t.exp = s.exp ∧ t.expv = s.expv ∧ t.ready = s.ready ∧ t.rx = s.rx ∧ t.tr = s.tr) :
    Digests s t := by
  obtain ⟨hfb, hexp, hexpv, hready, hrx, htr⟩ := h
  exact ⟨hfb, hexp, hexpv, hready, hrx, .inl (.of_eq htr)⟩

/-- A record update of other fields may come first. -/
theorem Digests.of_update {s u t : State} (h : Digests u t)
    (hu : u.fb = s.fb ∧ u.exp = s.exp ∧ u.expv = s.expv ∧ u.ready = s.ready ∧ u.rx = s.rx ∧ NoReset s u) :
    Digests s t := by
  obtain ⟨hfb, hexp, hexpv, hready, hrx, htr⟩ := hu
  exact ⟨h.fb.trans hfb, h.exp.trans hexp, h.expv.trans hexpv, h.ready.trans hready, h.rx.trans hrx,
    h.bus.imp htr.trans (And.imp_right htr.resetOnce)⟩

theorem digests_endOp (s : State) (v : Byte) : Digests s (s.endOp v) :=
  ⟨rfl, rfl, rfl, rfl, rfl, .inl (noReset_endOp s v)⟩

theorem digests_reset (s : State) (k : ResultKind) : Digests s (s.busReset.failWith k) :=
  ⟨rfl, rfl, rfl, rfl, rfl, .inr ⟨rfl, (show ResetOnce s s.busReset from ⟨[], [], rfl, by simp, by simp⟩).endOp _⟩⟩

theorem digests_startWait (s : State) (id : Word16) (tmo : Byte) : Digests s (s.startWait id tmo) := by
  unfold State.startWait
  split
  · exact .of_update (u := { s with wid := id, iter := 0 }) (digests_endOp _ _)
      ⟨rfl, rfl, rfl, rfl, rfl, .of_eq rfl⟩
  · exact .of_eq ⟨rfl, rfl, rfl, rfl, rfl, rfl⟩

theorem digests_confirmWait (s : State) : Digests s s.confirmWait := by
  unfold State.confirmWait
  split
  · exact digests_startWait s _ _
  · exact digests_endOp s _

theorem digests_sreqWait (s : State) : Digests s s.sreqWait := by
  unfold State.sreqWait
  split
  · exact digests_startWait s _ _
  · exact digests_endOp s _

theorem digests_withStatus {s ok : State} (len soff : Nat) (h : Digests s ok) :
    Digests s (s.withStatus len soff ok) := by
  unfold State.withStatus
  split
  · exact digests_reset s _
  · split
    · exact h
    · exact digests_endOp s _

theorem digests_afsendxNext (s : State) : Digests s s.afsendxNext := by
  unfold State.afsendxNext
  split
  · exact .of_eq ⟨rfl, rfl, rfl, rfl, rfl, rfl⟩
  · split
    · exact digests_confirmWait s
    · exact .of_eq ⟨rfl, rfl, rfl, rfl, rfl, rfl⟩

theorem digests_afretrxNext (s : State) (len : Nat) : Digests s (s.afretrxNext len) := by
  unfold State.afretrxNext
  split
  · exact digests_reset s _
  · split
    · exact digests_endOp s _
    · exact .of_eq ⟨rfl, rfl, rfl, rfl, rfl, rfl⟩

theorem digests_afterStatus (s : State) (len : Nat) : Digests s (s.afterStatus len) := by
  unfold State.afterStatus
  split
  · exact digests_sreqWait s
  · exact digests_confirmWait s
  · exact digests_afsendxNext s
  · exact digests_afretrxNext s len
  · exact digests_endOp s _

theorem digests_respond (s : State) (len : Nat) : Digests s (s.respond len) :=
  digests_withStatus _ _ (digests_afterStatus s len)

theorem digests_matched (s : State) (len : Nat) : Digests s (s.matched len) := by
  unfold State.matched
  split
  · exact digests_withStatus _ _ (digests_endOp s _)
  · exact digests_withStatus _ _ (digests_endOp s _)
  · exact digests_endOp s _

theorem digests_interpret (s : State) (v : Variant) (len : Byte) (id : Word16) : Digests s (s.interpret v len id) := by
  refine .of_update (u := s.classifyAs v len id) ?_ ⟨rfl, rfl, rfl, rfl, rfl, (steady_classifyAs s v len id).tr⟩
  unfold State.interpret State.afterClassify
  split
  · split
    · exact digests_matched _ _
    · exact .of_eq ⟨rfl, rfl, rfl, rfl, rfl, rfl⟩
  · split
    · exact digests_endOp _ _
    · exact .of_eq ⟨rfl, rfl, rfl, rfl, rfl, rfl⟩

theorem digests_receive (s : State) (v : Variant) (len : Byte) (id : Word16) : Digests s (s.receive v len id) := by
  unfold State.receive
  split
  · exact digests_respond s _
  · exact digests_interpret s v len id

/-! ### One step of the block -/

/-- The exchange fails (R260): one Bus reset, `PH = ERROR`, and the kind it will end with. -/
def Fails (s t : State) : Prop :=
  ∃ u k, Steady s u ∧ u.busy = s.busy ∧ u.ds = s.ds ∧ k ≠ .moduleSuccess ∧ t = u.exchangeError k

theorem fails_exchangeError (s : State) {k : ResultKind} (hk : k ≠ .moduleSuccess) : Fails s (s.exchangeError k) :=
  ⟨s, k, .refl s, rfl, rfl, hk, rfl⟩

theorem Fails.resetOnce {s t : State} (h : Fails s t) : ResetOnce s t := by
  obtain ⟨u, k, hu, -, -, -, rfl⟩ := h
  exact hu.tr.resetOnce (resetOnce_exchangeError u k)

/-- A step inside an exchange: it goes on with the id it expects, or it fails. -/
def Advances (s t : State) : Prop := (Steady s t ∧ t.ph ≠ .error) ∨ Fails s t

theorem awaitStep_advances {s : State} (level : Bool) (b : Bound) {next : Phase} {k : ResultKind}
    (hk : k ≠ .moduleSuccess) (hs : s.ph ≠ .error) (hn : next ≠ .error) :
    Advances s (s.awaitStep level b next k) := by
  have spin : Steady s { s.sampled with spin := s.spin - 1 } := (steady_sampled s).trans ⟨rfl, rfl, .of_eq rfl⟩
  unfold State.awaitStep
  split
  · exact .inl ⟨(steady_sampled s).trans (steady_toPh _ _), hn⟩
  · split
    · exact .inl ⟨steady_sampled s, hs⟩
    · split
      · exact .inr ⟨_, k, spin, rfl, rfl, hk, rfl⟩
      · exact .inl ⟨spin, hs⟩

theorem headerStep_advances (s : State) : Advances s s.headerStep := by
  have header := steady_transfer s 0 hdr
  have shift := shifts_transfer s 0 hdr
  unfold State.headerStep
  obtain h | ⟨-, h⟩ | ⟨-, h⟩ := headerReceived_cases (s.transfer 0 hdr) <;> rw [h]
  · exact .inr ⟨_, .phyOtherError, header, shift.busy, shift.ds, by decide, rfl⟩
  · exact .inl ⟨header.trans ((steady_setSelect _ _).trans (steady_toPh _ _)), nofun⟩
  · exact .inl ⟨header.trans (steady_toPh _ _), nofun⟩

theorem completeStep_advances (s : State) : Advances s s.completeStep := by
  obtain h | ⟨-, h⟩ := completeStep_cases s <;> rw [h]
  · exact .inr (fails_exchangeError s nofun)
  · exact .inl ⟨(steady_toPh s .idle).trans (steady_afterExchange _), by rw [afterExchange_ph]; nofun⟩

theorem tick_advances {s : State} (hi : s.ph ≠ .idle) (he : s.ph ≠ .error) : Advances s s.tick := by
  unfold State.tick
  split
  case h_1 h => exact absurd h hi
  case h_2 =>
    exact .inl ⟨(steady_toPh s _).trans (steady_loadSpin _ _), by rw [State.selectStep, loadSpin_ph]; nofun⟩
  case h_3 => exact awaitStep_advances _ _ nofun he nofun
  case h_4 =>
    exact .inl ⟨(steady_transfer s _ _).trans ((steady_fbPut _ _ _).trans ((steady_toPh _ _).trans
      (steady_loadSpin _ _))), by rw [State.sendStep, loadSpin_ph]; nofun⟩
  case h_5 => exact awaitStep_advances _ _ nofun he nofun
  case h_6 => exact headerStep_advances s
  case h_7 => exact .inl ⟨(steady_transfer s _ _).trans ((steady_setSelect _ _).trans (steady_toPh _ _)), nofun⟩
  case h_8 => exact completeStep_advances s
  case h_9 h => exact absurd h he

/-- A step between exchanges that starts none: it resets nothing, or interprets a frame. -/
theorem idlePhaseStep_digests {s : State} (hx : s.ds ≠ .dExchange) (hw : s.ds ≠ .dWaitPoll) :
    Steady s s.idlePhaseStep ∨ Digests s s.idlePhaseStep := by
  unfold State.idlePhaseStep
  split
  case h_1 =>
    unfold State.directStep
    split
    · exact .inl (.trans (t := { s.sampled with msgw := s.nextReady }) ⟨rfl, rfl, (steady_sampled s).tr⟩
        (steady_endOp _ _))
    · exact .inr (digests_interpret s _ _ _)
    · exact .inl (steady_endOp s _)
  case h_2 => exact .inl (steady_validateStep s)
  case h_3 => exact .inl (steady_buildStep s)
  case h_4 h => exact absurd h hx
  case h_5 => exact .inr (digests_respond s _)
  case h_6 => exact .inl (steady_sampleStep s)
  case h_7 h => exact absurd h hw
  case h_8 => exact .inr (digests_interpret s _ _ _)
  case h_9 => exact .inl (steady_delayStep s)
  case h_10 => exact .inl (steady_chunkStep s)
  case h_11 => exact .inl (steady_endOp s _)

/-- The start of an exchange (R134): a poll clears `EXPV`, a request that fits latches what it expects, one that does not
fails at once. -/
theorem exchangeStep_cases (s : State) :
    (s.polling = true ∧ s.exchangeStep.exp = s.exp ∧ NoReset s s.exchangeStep ∧
        s.exchangeStep.ph = .selectAsserted) ∨
      (s.polling = false ∧ ((s.exchangeStep.expv = true ∧ NoReset s s.exchangeStep ∧
          s.exchangeStep.ph = .selectAsserted) ∨
        Fails s s.exchangeStep)) := by
  unfold State.exchangeStep
  split
  · next h => exact .inl ⟨h, rfl, ⟨[_], rfl, by simp⟩, rfl⟩
  · next h =>
    refine .inr ⟨Bool.eq_false_iff.mpr h, ?_⟩
    unfold State.requestStart
    split
    · exact .inr (fails_exchangeError s nofun)
    · exact .inl ⟨rfl, ⟨[_], rfl, by simp⟩, rfl⟩

/-- What a step does to the Bus resets of the trace. -/
inductive BusCase (s : State) : Prop
  | steady (hp : s.tick.ph ≠ .error) (h : NoReset s s.tick)
  | fails (h : Fails s s.tick)
  | ends (hd : s.ds ≠ .dExchange) (hb : s.tick.busy = false) (h : ResetOnce s s.tick)

theorem bus_cases {s : State} (he : s.ph ≠ .error) : BusCase s := by
  by_cases hi : s.ph = .idle
  · have ht : s.tick = s.idlePhaseStep := by simp only [State.tick, hi]
    by_cases hd : s.ds = .dExchange ∨ s.ds = .dWaitPoll
    · have hx : s.tick = s.exchangeStep := by
        rw [ht]
        obtain hd | hd := hd <;> simp only [State.idlePhaseStep, hd]
      obtain ⟨-, -, h, hp⟩ | ⟨-, ⟨-, h, hp⟩ | h⟩ := exchangeStep_cases s <;> rw [← hx] at h
      · exact .steady (by rw [hx, hp]; nofun) h
      · exact .steady (by rw [hx, hp]; nofun) h
      · exact .fails h
    · obtain ⟨hx, hw⟩ := not_or.mp hd
      have hp : s.tick.ph ≠ .error := by rw [ht, idlePhaseStep_ph hx hw, hi]; nofun
      obtain h | h := idlePhaseStep_digests hx hw <;> rw [← ht] at h
      · exact .steady hp h.tr
      · obtain h | ⟨hb, h⟩ := h.bus
        · exact .steady hp h
        · exact .ends hx hb h
  · obtain ⟨h, hp⟩ | h := tick_advances hi he
    · exact .steady hp h.tr
    · exact .fails h

end Sys2Proof.Machine
end

section
/-! SUPPORT. Whole operations: the law of the Bus along a run (R142, R260), the exchange operations to their end (R140),
the operations of one step (R145, R210), and who leaves `FB`, `EXP` and `EXPV` alone (R136, R141, R223). -/
namespace Sys2Proof.Machine

/-! ### Whole operations (R142) -/

/-- What a run has done to the Bus: nothing yet, or one reset, behind which only the end is left. -/
def BusLaw (s t : State) : Prop :=
  (NoReset s t ∧ t.ph ≠ .error) ∨ (ResetOnce s t ∧ (t.busy = true → t.ph = .error))

theorem tick_of_error {s : State} (h : s.ph = .error) : s.tick = s.leaveError := by simp only [State.tick, h]

/-- Leaving `ERROR` adds no Bus event. -/
theorem ResetOnce.leaveError {s t : State} (h : ResetOnce s t) : ResetOnce s t.leaveError :=
  ResetOnce.endOp (t := t.toPh .idle) h _

theorem busLaw_tick {s t : State} (hb : t.busy = true) (h : BusLaw s t) : BusLaw s t.tick := by
  obtain ⟨h, hp⟩ | ⟨h, hp⟩ := h
  · cases bus_cases hp with
    | steady hp' ht => exact .inl ⟨h.trans ht, hp'⟩
    | fails ht =>
      refine .inr ⟨h.resetOnce ht.resetOnce, fun _ => ?_⟩
      obtain ⟨u, k, -, -, -, -, he⟩ := ht
      rw [he]
      rfl
    | ends _ hb' ht => exact .inr ⟨h.resetOnce ht, fun h' => by simp [hb'] at h'⟩
  · rw [tick_of_error (hp hb)]
    exact .inr ⟨h.leaveError, nofun⟩

/-- Settles O19: every step keeps the law of the Bus, so the run from the `CMD` write does. -/
theorem operationResetsAtMostOnce : Obligations.OperationResetsAtMostOnce := by
  rintro i s t hf ⟨⟨-, hp, -, -⟩, -, -⟩ h
  obtain ⟨v, hv⟩ := exists_decodeOp hf
  obtain ⟨-, -, rfl⟩ := exec_hostop_cases hv h
  have hstart : BusLaw s (s.beginOp v) := .inl ⟨.of_eq rfl, by rw [beginOp_ph, hp]; nofun⟩
  obtain ⟨h, -⟩ | ⟨h, -⟩ := runToDone_induction (fun _ => busLaw_tick) s.allowance hstart
  · obtain ⟨es, ht, hes⟩ := h.events
    exact ⟨es, ht, by omega, fun h1 => by omega⟩
  · obtain ⟨es, ht, hes, hlast⟩ := h.events
    exact ⟨es, ht, by omega, fun _ => hlast⟩

/-- Every kind but success has a code of its own, not 0 (R110). -/
theorem code_ne_zero {c : Cfg} (hv : c.valid = true) {k : ResultKind} (hk : k ≠ .moduleSuccess) :
    ResultCodes.code c.rc k ≠ 0#8 := by
  have hrc : c.rc.valid = true := check_of_valid hv (by simp [Cfg.checks])
  have hall := List.all_eq_true.mp (Bool.and_eq_true_iff.mp hrc).2
  have hmem : ResultCodes.code c.rc k ∈ c.rc.list := by
    cases k
    case moduleSuccess => exact absurd rfl hk
    all_goals simp [ResultCodes.code, ResultCodes.list]
  have hle := of_decide_eq_true (Bool.and_eq_true_iff.mp (hall _ hmem)).1
  intro h0
  rw [h0] at hle
  exact absurd hle (by decide)

/-- `XCHG.RR` and `XCHG.POLL` from their `CMD` write at `s` on. -/
inductive XchgRun (s t : State) : Prop
  | runs (hb : t.busy = true) (hd : t.ds = .dExchange) (hp : t.ph ≠ .error) (h : NoReset s t)
      (he : t.polling = true ∨ t.ph = .idle ∨ t.expv = true)
  | fails (hb : t.busy = true) (hp : t.ph = .error) (hk : t.errk ≠ .moduleSuccess) (h : ResetOnce s t)
  | succeeds (hb : t.busy = false) (hr : t.res = 0#8) (h : NoReset s t)
      (he : t.cmd = 0x02#8 ∨ (t.expv = true ∧ t.frameCid = t.exp))
  | failed (hb : t.busy = false) (hr : t.res ≠ 0#8) (h : ResetOnce s t)

theorem afterExchange_xchg {s : State} (hc : s.cmd = 0x01#8 ∨ s.cmd = 0x02#8) (hd : s.ds ≠ .dWaitPoll) :
    s.afterExchange = s.endOp 0#8 := by
  unfold State.afterExchange State.running
  obtain hc | hc := hc <;> rw [if_neg hd, hc] <;> rfl

/-- A failing exchange of `XCHG.RR` or `XCHG.POLL`. -/
theorem Fails.xchgRun {s t u : State} (h : Fails t u) (hb : t.busy = true) (hs : NoReset s t) : XchgRun s u := by
  have hreset := hs.resetOnce h.resetOnce
  obtain ⟨w, k, -, hwb, -, hk, rfl⟩ := h
  exact .fails (hwb.trans hb) rfl hk hreset

/-- The last step of an exchange: the id of a request's response has been compared (R140, R141). -/
theorem xchgRun_complete {s t : State} (hc : t.cmd = 0x01#8 ∨ t.cmd = 0x02#8) (hb : t.busy = true)
    (hd : t.ds = .dExchange) (hp : t.ph = .complete) (h : NoReset s t)
    (he : t.polling = true ∨ t.ph = .idle ∨ t.expv = true) : XchgRun s t.tick := by
  have ht : t.tick = t.completeStep := by simp only [State.tick, hp]
  rw [ht]
  obtain hcs | ⟨hm, hcs⟩ := completeStep_cases t
  · rw [hcs]
    exact (fails_exchangeError t (k := .incorrectSrsp) nofun).xchgRun hb h
  · rw [hcs, afterExchange_xchg (s := t.toPh .idle) hc (by rw [toPh_ds, hd]; nofun)]
    refine .succeeds rfl rfl (h.trans (noReset_endOp (t.toPh .idle) 0#8)) ?_
    have hpoll : t.polling = true → t.cmd = 0x02#8 := by simp [State.polling, hd]
    by_cases h2 : t.cmd = 0x02#8
    · exact .inl h2
    · have hid : t.frameCid = t.exp := by
        simpa [State.mismatched, Bool.eq_false_iff.mpr (mt hpoll h2)] using hm
      exact .inr ⟨(he.resolve_left (mt hpoll h2)).resolve_left (by rw [hp]; nofun), hid⟩

theorem xchgRun_tick {s t : State} (hb : t.busy = true) (hv : t.cfg.valid = true)
    (hc : t.cmd = 0x01#8 ∨ t.cmd = 0x02#8) (h : XchgRun s t) : XchgRun s t.tick := by
  cases h with
  | runs _ hd hp h he =>
    by_cases hcomplete : t.ph = .complete
    · exact xchgRun_complete hc hb hd hcomplete h he
    · by_cases hi : t.ph = .idle
      · have ht : t.tick = t.exchangeStep := by simp only [State.tick, State.idlePhaseStep, hi, hd]
        have hshift := shifts_exchangeStep t
        have hpoll : t.exchangeStep.polling = t.polling := by
          simp only [State.polling, hshift.ds, hshift.held.cmd]
        rw [ht]
        obtain ⟨hpo, -, htr, hph⟩ | ⟨-, ⟨hexpv, htr, hph⟩ | hf⟩ := exchangeStep_cases t
        · exact .runs (hshift.busy.trans hb) (hshift.ds.trans hd) (by rw [hph]; nofun) (h.trans htr)
            (.inl (hpoll.trans hpo))
        · exact .runs (hshift.busy.trans hb) (hshift.ds.trans hd) (by rw [hph]; nofun) (h.trans htr)
            (.inr (.inr hexpv))
        · exact hf.xchgRun hb h
      · obtain ⟨hsteady, hph⟩ | hf := tick_advances hi hp
        · cases tick_cases hb with
          | exchange _ hshift =>
            have hpoll : t.tick.polling = t.polling := by simp only [State.polling, hshift.ds, hshift.held.cmd]
            exact .runs (hshift.busy.trans hb) (hshift.ds.trans hd) hph (h.trans hsteady.tr)
              (he.imp hpoll.trans fun he => .inr (hsteady.expv.trans (he.resolve_left hi)))
          | between hi' => exact absurd hi' hi
          | ended hce => exact (hce.elim hcomplete hp).elim
        · exact hf.xchgRun hb h
  | fails _ hp hk h =>
    rw [tick_of_error hp]
    exact .failed rfl (code_ne_zero hv hk) h.leaveError
  | succeeds hb' => simp [hb] at hb'
  | failed hb' => simp [hb] at hb'

/-- An exchange operation along its run. -/
theorem exec_xchgRun {i : Instr} {v : Byte} {s t : State} (hv : decodeOp v = .ok i) (hs : startState v = .dExchange)
    (hc : v = 0x01#8 ∨ v = 0x02#8) (hp : s.ph = .idle) (h : exec i s = .next t) :
    t.cmd = v ∧ t.cfg.valid = true ∧ XchgRun s t := by
  obtain ⟨-, hvalid, rfl⟩ := exec_hostop_cases hv h
  refine runToDone_induction (P := fun t => t.cmd = v ∧ t.cfg.valid = true ∧ XchgRun s t)
    (fun t hb ⟨htc, htv, ht⟩ => ⟨(tick_cmd hb).trans htc, by rw [(kept_tick t).cfg, htv],
      xchgRun_tick hb htv (htc ▸ hc) ht⟩) _ ⟨rfl, hvalid, ?_⟩
  exact .runs rfl hs (by rw [beginOp_ph, hp]; nofun) (.of_eq rfl) (.inr (.inl hp))

/-- Settles O18: the run ends with the comparison of the ids, or out of `ERROR` behind the one reset. -/
theorem exchangeResetsOnce : Obligations.ExchangeResetsOnce := by
  rintro i s t hi ⟨⟨-, hp, -, -⟩, -, -⟩ h hb
  have hrun : XchgRun s t := by
    obtain rfl | rfl := hi
    · exact (exec_xchgRun (v := 0x01#8) rfl rfl (.inl rfl) hp h).2.2
    · exact (exec_xchgRun (v := 0x02#8) rfl rfl (.inr rfl) hp h).2.2
  cases hrun with
  | runs hb' => simp [hb] at hb'
  | fails hb' => simp [hb] at hb'
  | succeeds _ hr h =>
    obtain ⟨es, ht, hes⟩ := h.events
    exact ⟨es, ht, fun _ => hes, fun hr' => absurd hr hr'⟩
  | failed _ hr h =>
    obtain ⟨es, ht, hes⟩ := h.events
    exact ⟨es, ht, fun hr' => absurd hr' hr, fun _ => hes⟩

/-! ### The operations without an exchange (R145, R210) -/

/-- `RDYQ`, `CLSFY` and the reserved opcodes take one step. -/
theorem exec_direct {i : Instr} {v : Byte} {s : State} (hv : decodeOp v = .ok i) (hd : startState v = .dIdle)
    (hb : s.busy = false) (hp : s.ph = .idle) (hvalid : s.cfg.valid = true) :
    exec i s = .next (s.beginOp v).directStep := by
  have hfault : s.startFault (runsExchange v) = none := by simp [State.startFault, hb, hvalid, runsExchange, hd]
  obtain ⟨n, hn⟩ := exists_allowance s
  obtain ⟨u, -, h | ⟨-, h, -⟩⟩ := directStep_stepped (D := fun _ => False) (s := s.beginOp v) rfl hd
  · rw [exec_of_decodeOp s hv]
    refine operate_next hfault (m := 1) (by omega) ?_ h.busy
    simp only [runToDone_succ (s := s.beginOp v) rfl, runToDone_zero, State.tick, State.idlePhaseStep, beginOp_ph, hp,
      beginOp_ds, hd]
  · exact h.elim

theorem directStep_rdyq {s : State} (h : s.cmd = 0x03#8) :
    s.directStep = { s.sampled with msgw := s.nextReady }.endOp 0#8 := by
  unfold State.directStep State.running
  rw [h]
  rfl

theorem diagEvents_zero (s : State) : s.diagEvents 0#8 = [] := by simp [State.diagEvents]

/-- Settles O31: one step, and its sample is the listed level or the free one. -/
theorem readyQuery : Obligations.ReadyQuery := by
  rintro s ⟨hb, hp, hd, -⟩ hv
  have hexec : exec .rdyq s = .next ({ (s.beginOp 0x03#8).sampled with msgw := s.nextReady }.endOp 0#8) :=
    (exec_direct (v := 0x03#8) rfl rfl hb hp hv).trans (congrArg _ (directStep_rdyq rfl))
  refine ⟨fun v levels hr => ?_, fun hr => ⟨s.nextReady, ?_⟩⟩
  · rw [hexec, sampled_cons (s := s.beginOp 0x03#8) hr, nextReady_cons hr]
    simp [State.endOp, diagEvents_zero, State.beginOp, hb, hd]
  · rw [hexec]
    simp [State.endOp, diagEvents_zero, State.beginOp, State.sampled, State.nextReady, hb, hd, hr]

/-- A nonempty frame with the expected id is classified as the response (R212, R215). -/
theorem clsfy_expected {s : State} (hb : s.busy = false) (hp : s.ph = .idle) (hv : s.cfg.valid = true)
    (hl : s.fbAt 0 ≠ 0#8) (he : s.expv = true) (hid : s.frameCid = s.exp) :
    ∃ u, exec .clsfy s = .next u ∧ u.k.kind = 0x01#8 ∧ u.k.cid = s.exp := by
  obtain ⟨b, hbdef⟩ : ∃ b, b = s.beginOp 0x04#8 := ⟨_, rfl⟩
  have hbid : b.frameCid = s.exp := hbdef ▸ hid
  have hsel : b.selectVariant (variantOfId b.cfg.cid b.frameCid) (b.fbAt 0) b.frameCid = .syncResponse :=
    selectVariant_expected _ (hbdef ▸ hl) (hbdef ▸ he) (by rw [hbid, hbdef]; rfl)
  have hstep : b.directStep = b.receive (variantOfId b.cfg.cid b.frameCid) (b.fbAt 0) b.frameCid := by
    rw [directStep_clsfy (by rw [hbdef]; rfl), State.receive, if_neg (by rw [hbdef]; exact nofun)]
    rfl
  refine ⟨b.directStep, hbdef ▸ exec_direct (v := 0x04#8) rfl rfl hb hp hv, ?_, ?_⟩ <;>
    rw [hstep, receive_clsfy _ _ _ (by rw [hbdef]; rfl) (by rw [hbdef]; rfl), hsel]
  · rfl
  · exact hbid

/-- Settles O51: `XCHG.RR` succeeds only behind the comparison of the ids, with `EXPV = 1`. -/
theorem pairedResponseIsSync : Obligations.PairedResponseIsSync := by
  rintro s t ⟨⟨-, hp, -, hs⟩, -, -⟩ h hb hr hl
  obtain ⟨hc, hv, hrun⟩ := exec_xchgRun (v := 0x01#8) rfl rfl (.inl rfl) hp h
  obtain ⟨-, -, ht⟩ := exec_hostop_cases (v := 0x01#8) rfl h
  have hcontrol : Control t :=
    ht ▸ runToDone_induction (fun _ => control_tick) s.allowance (control_beginOp 0x01#8 hp hs)
  cases hrun with
  | runs hb' => simp [hb] at hb'
  | fails hb' => simp [hb] at hb'
  | succeeds _ _ _ he =>
    obtain ⟨hexpv, hid⟩ := he.resolve_left (by rw [hc]; decide)
    exact clsfy_expected hb (hcontrol.rest hb).1 hv hl hexpv hid
  | failed _ hr' => exact absurd hr hr'

/-! ### `FB`, `EXP` and `EXPV` (R136, R141, R223) -/

/-- Only a request latches `EXP` (R26, R134). -/
theorem tick_exp {s : State} (h : s.ph = .idle → s.ds = .dExchange → s.polling = true) : s.tick.exp = s.exp := by
  by_cases hi : s.ph = .idle
  · have ht : s.tick = s.idlePhaseStep := by simp only [State.tick, hi]
    by_cases hd : s.ds = .dExchange ∨ s.ds = .dWaitPoll
    · have hpoll : s.polling = true := hd.elim (h hi) polling_of_dWaitPoll
      have hx : s.tick = s.exchangeStep := by
        rw [ht]
        obtain hd | hd := hd <;> simp only [State.idlePhaseStep, hd]
      obtain ⟨-, he, -, -⟩ | ⟨hn, -⟩ := exchangeStep_cases s
      · rw [hx, he]
      · simp [hpoll] at hn
    · obtain ⟨hx, hw⟩ := not_or.mp hd
      rw [ht]
      obtain h | h := idlePhaseStep_digests hx hw
      · exact h.exp
      · exact h.exp
  · by_cases he : s.ph = .error
    · rw [tick_of_error he]; rfl
    · obtain ⟨h, -⟩ | ⟨u, k, hu, -, -, -, ht⟩ := tick_advances hi he
      · exact h.exp
      · rw [ht]; exact hu.exp

/-- A wait is left by its end only (R166, R174). -/
theorem tick_waiting {s : State} (hb : s.busy = true) (hc : Control s) (hw : s.ds.waits = true) :
    s.tick.busy = false ∨ s.tick.ds.waits = true := by
  cases tick_cases hb with
  | exchange _ ht => exact .inr (ht.ds ▸ hw)
  | between hp ht =>
    obtain ⟨u, -, h | ⟨d, hd, h⟩⟩ := ht
    · exact .inl h.busy
    · rw [h.ds]
      cases d <;> simp only [State.LeadsTo, hp] at hd
      case dBuild => obtain ⟨-, hd | hd⟩ := hd <;> simp [hd, DState.waits] at hw
      case dExchange => simp [hd.2, DState.waits] at hw
      case dStatus => cases hd
      case dChunk => simp [hd.2, DState.waits] at hw
      all_goals exact .inr rfl
  | ended hp _ =>
    obtain hp | hp := hp
    · have hd : s.ds = .dWaitPoll :=
        (hc.exchange (by rw [hp]; nofun)).resolve_left fun hd => by simp [hd, DState.waits] at hw
      have ht : s.tick = (s.toPh .idle).toDs .dWaitClassify := by
        simp [State.tick, hp, State.completeStep, State.mismatched, polling_of_dWaitPoll hd, State.afterExchange, hd]
      exact .inr (by rw [ht]; rfl)
    · rw [tick_of_error hp]; exact .inl rfl

theorem startWait_waits (s : State) (id : Word16) (tmo : Byte) :
    (s.startWait id tmo).busy = false ∨ (s.startWait id tmo).ds.waits = true := by
  unfold State.startWait
  split
  · exact .inl rfl
  · exact .inr rfl

theorem validateStep_waitn {s : State} (h : s.cmd = 0x05#8) : s.validateStep = s.startWait s.a.nid s.a.tmo := by
  unfold State.validateStep State.running
  rw [h]
  rfl

/-- `WAITN` sends no request. -/
theorem runToDone_exp_waitn {s : State} (hc : Control (s.beginOp 0x05#8)) (hp : s.ph = .idle) (n : Nat) :
    (runToDone n (s.beginOp 0x05#8)).exp = s.exp := by
  have hrun := runToDone_induction
    (P := fun t => t.cmd = 0x05#8 ∧ Control t ∧ t.exp = s.exp ∧
      ((t.ph = .idle ∧ t.ds = .dValidate) ∨ t.busy = false ∨ t.ds.waits = true))
    (fun t hb ⟨htc, htk, hte, htd⟩ => ?_) n ⟨rfl, hc, rfl, .inl ⟨hp, rfl⟩⟩
  · exact hrun.2.2.1
  · have hne : t.ds ≠ .dExchange := by
      obtain ⟨-, hd⟩ | hd | hd := htd
      · rw [hd]; nofun
      · simp [hb] at hd
      · rintro h; simp [h, DState.waits] at hd
    refine ⟨(tick_cmd hb).trans htc, control_tick hb htk, (tick_exp fun _ h => absurd h hne).trans hte, .inr ?_⟩
    obtain ⟨hp, hd⟩ | hd | hd := htd
    · rw [tick_validate hp hd, validateStep_waitn htc]
      exact startWait_waits t _ _
    · simp [hb] at hd
    · exact tick_waiting hb htk hd

/-- A sent row latches nothing and asks the Module nothing. -/
theorem exec_frameTx_bus {i : Instr} {s t : State} (hf : i.format = .frameTx) (h : exec i s = .next t) :
    t.exp = s.exp ∧ t.ready = s.ready ∧ t.rx = s.rx := by
  have built (len : Byte) (id : Word16) (fs : List (Nat × List Byte)) :
      (((s.putHeader len id).putFields fs).toDs .dExchange).exp = s.exp ∧
        (((s.putHeader len id).putFields fs).toDs .dExchange).ready = s.ready ∧
        (((s.putHeader len id).putFields fs).toDs .dExchange).rx = s.rx := by
    rw [putFields_eq]
    exact ⟨rfl, rfl, rfl⟩
  cases i
  case poll => exact Host.Outcome.next.inj h ▸ ⟨rfl, rfl, rfl⟩
  case afDataRequest len => exact Host.Outcome.next.inj h ▸ ⟨rfl, rfl, rfl⟩
  case afDataRequestExt =>
    rw [← Host.Outcome.next.inj h, buildSendExt_eq]
    exact ⟨rfl, rfl, rfl⟩
  case afDataStore len => exact Host.Outcome.next.inj h ▸ built _ _ _
  case afDataRetrieve => exact Host.Outcome.next.inj h ▸ built _ _ _
  all_goals cases hf

/-- Settles O24: the interpretation of a frame writes none of these; a poll and a wait send no request. -/
theorem frameBufferFrame : Obligations.FrameBufferFrame := by
  intro i s t hq h
  have received (hf : i.format = .frameRx) : Digests s t := by
    obtain ⟨v, len, id, he⟩ := exec_frameRx_eq s hf
    exact Host.Outcome.next.inj (he.symm.trans h) ▸ digests_receive s v len id
  refine ⟨?_, fun hf => ?_, ?_⟩
  · rintro (hf | rfl | rfl)
    · exact ⟨(received hf).fb, (received hf).exp, (received hf).expv⟩
    · obtain ⟨hb, hv, -⟩ := exec_hostop_cases (v := 0x03#8) rfl h
      have ht := Host.Outcome.next.inj ((exec_direct (v := 0x03#8) rfl rfl hb (hq rfl).2.1 hv).symm.trans h)
      rw [← ht, directStep_rdyq rfl]
      exact ⟨rfl, rfl, rfl⟩
    · obtain ⟨hb, hv, -⟩ := exec_hostop_cases (v := 0x04#8) rfl h
      have ht := Host.Outcome.next.inj ((exec_direct (v := 0x04#8) rfl rfl hb (hq rfl).2.1 hv).symm.trans h)
      have hd := digests_interpret (s.beginOp 0x04#8)
        (variantOfId s.cfg.cid s.frameCid) (s.fbAt 0) s.frameCid
      rw [← ht, directStep_clsfy rfl]
      exact ⟨hd.fb, hd.exp, hd.expv⟩
  · cases hfmt : i.format with
    | hostop => exact absurd hfmt hf
    | frameTx => exact exec_frameTx_bus hfmt h
    | frameRx => exact ⟨(received hfmt).exp, (received hfmt).ready, (received hfmt).rx⟩
  · rintro (rfl | rfl)
    · obtain ⟨-, -, rfl⟩ := exec_hostop_cases (v := 0x02#8) rfl h
      exact runToDone_keeps (s := s.beginOp 0x02#8) State.exp
        (fun t _ hc _ => tick_exp fun _ _ => by rw [State.polling, hc]; simp) _
    · obtain ⟨-, -, rfl⟩ := exec_hostop_cases (v := 0x05#8) rfl h
      obtain ⟨-, hp, -, hs⟩ := hq rfl
      exact runToDone_exp_waitn (control_beginOp _ hp hs) hp _

end Sys2Proof.Machine
end

section
/-! SUPPORT. Exchanges from their start to their end (R134 to R143): the state in which the frame is about to go out, and
from it the four ways an exchange ends. -/
namespace Sys2Proof.Machine

/-! ### Runs of bounded length -/

/-- The block steps from `s` to `t` in at most `n` steps. -/
def Within (n : Nat) (s t : State) : Prop := ∃ m, m ≤ n ∧ runToDone m s = t

theorem Within.of_run {n : Nat} {s t : State} (h : runToDone n s = t) : Within n s t := ⟨n, Nat.le_refl n, h⟩

theorem Within.refl (s : State) : Within 0 s s := .of_run rfl

theorem Within.tick {s t : State} (hb : s.busy = true) (ht : s.tick = t) : Within 1 s t :=
  .of_run ((runToDone_succ hb 0).trans ht)

theorem Within.trans {m n : Nat} {s t u : State} (h : Within m s t) (g : Within n t u) : Within (m + n) s u := by
  obtain ⟨k, hk, rfl⟩ := h
  obtain ⟨l, hl, rfl⟩ := g
  exact ⟨k + l, by omega, runToDone_add k l s⟩

theorem Within.mono {m n : Nat} {s t : State} (h : Within m s t) (hn : m ≤ n) : Within n s t := by
  obtain ⟨k, hk, he⟩ := h
  exact ⟨k, by omega, he⟩

/-- A host operation whose run ends inside its allowance answers the state it ends in. -/
theorem exec_within {i : Instr} {v : Byte} {n : Nat} {s t : State} (hv : decodeOp v = .ok i) (hs : s.Startable)
    (h : Within n (s.beginOp v) t) (hn : n ≤ s.allowance) (ht : t.busy = false) : exec i s = .next t := by
  obtain ⟨⟨hb, -, -, -⟩, hvalid, hup⟩ := hs
  obtain ⟨m, hm, hrun⟩ := h
  rw [exec_of_decodeOp s hv]
  exact operate_next (by simp [State.startFault, hb, hvalid, hup]) (by omega) hrun ht

/-- What an operation is allowed: that many exchanges at their bounds, and more (entry 5). -/
theorem allowance_ge (s : State) :
    (s.a.tmo.toNat * 1000 + 8) *
      (Bound.samples s.cfg.tCs s.ready.length + Bound.samples s.cfg.tSrsp s.ready.length + 16) ≤ s.allowance :=
  Nat.mul_le_mul (by omega) (Nat.le_refl _)

theorem le_samples_of_allows {b : Bound} {p l : Nat} (h : Bound.allows b p = true) (hp : p ≤ l) :
    p ≤ Bound.samples b l := by
  cases b with
  | inf => exact Nat.le_succ_of_le hp
  | fin t => exact Nat.le_of_lt (of_decide_eq_true h)

/-! ### The frame buffer -/

theorem fbAt_congr {s t : State} (h : t.fb = s.fb) (a : Nat) : t.fbAt a = s.fbAt a := by
  simp only [State.fbAt, h]

/-- `FB` from its bytes, those of a frame and those behind it. -/
theorem fbAt_of_frame {s t : State} {frame : List Byte} (hframe : t.fbBytes 0 frame.length = frame)
    (hrest : ∀ a, frame.length ≤ a → t.fbAt a = s.fbAt a) (a : Nat) : t.fbAt a = frame[a]?.getD (s.fbAt a) := by
  by_cases ha : a < frame.length
  · have h : (t.fbBytes 0 frame.length)[a]? = some (t.fbAt a) := by simp [State.fbBytes, ha]
    rw [hframe] at h
    rw [h, Option.getD_some]
  · rw [List.getElem?_eq_none (by omega), Option.getD_none, hrest a (by omega)]

theorem fbBytes_of_fbAt {s : State} {frame : List Byte} {f : Nat → Byte}
    (h : ∀ a, s.fbAt a = frame[a]?.getD (f a)) : s.fbBytes 0 frame.length = frame := by
  apply List.ext_getElem (by simp)
  intro i h1 h2
  simp [State.fbBytes, h, List.getElem?_eq_getElem h2]

/-- Bytes written at the head of `FB`. -/
theorem fbAt_of_memPut {s t : State} {bs : List Byte} (hcap : bs.length ≤ s.cfg.cap)
    (h : t.fb = memPut s.cfg.cap s.fb 0 bs) (a : Nat) : t.fbAt a = bs[a]?.getD (s.fbAt a) := by
  have hput : t.fbAt a = (s.fbPut 0 bs).fbAt a := fbAt_congr h a
  rw [hput, fbPut_fbAt]
  split
  · rfl
  · rw [List.getElem?_eq_none (by omega), Option.getD_none]

/-- `FB` after an answered exchange, in the words of the statements (R136, R143). -/
theorem exchangedFb_fbAt {s t : State} {r : Reply} (hj : r.junk.length ≤ s.cfg.cap)
    (hr : 3 + r.pay.length ≤ s.cfg.cap) (h : t.fb = exchangedFb s.cfg.cap s.fb r.junk r.id r.pay) (a : Nat) :
    t.fbAt a = ontoBuffer s.fbAt r a := by
  have hframe : r.frame = responseHeader r.id r.pay ++ r.pay := rfl
  simp only [State.fbAt, h, exchangedFb_get, ontoBuffer, hframe]
  by_cases ha : a < s.cfg.cap
  · rw [if_pos ha]
    cases (responseHeader r.id r.pay ++ r.pay)[a]? <;> cases r.junk[a]? <;> rfl
  · have h1 : (responseHeader r.id r.pay ++ r.pay)[a]? = none :=
      List.getElem?_eq_none (by simp [responseHeader]; omega)
    have h2 : r.junk[a]? = none := List.getElem?_eq_none (by omega)
    rw [if_neg ha, h1, h2]
    rfl

theorem Reply.frame_length (r : Reply) : r.frame.length = 3 + r.pay.length := by
  simp only [Reply.frame, List.length_append, List.length_cons, List.length_nil]

/-- The response stands at the head of `FB`. -/
theorem fbBytes_ontoBuffer {t : State} {f : Nat → Byte} {r : Reply} (h : ∀ a, t.fbAt a = ontoBuffer f r a) :
    t.fbBytes 0 (3 + r.pay.length) = r.frame := by
  rw [← r.frame_length]
  exact fbBytes_of_fbAt h

theorem ontoBuffer_behind {f : Nat → Byte} {r : Reply} {a : Nat} (ha : 3 + r.pay.length ≤ a) :
    ontoBuffer f r a = r.junk[a]?.getD (f a) := by
  rw [ontoBuffer, List.getElem?_eq_none (by rw [r.frame_length]; omega), Option.getD_none]

/-! ### The start of an exchange -/

/-- `v` is about to send `frame`, select just asserted (R134); `u` is the state the statements speak of: that in which the
exchange starts, but for `FB` and the control registers. -/
structure Launched (u v : State) (frame : List Byte) : Prop where
  state : v = { u with
    fb := v.fb, ds := v.ds, done := v.done, busy := true, ph := .selectAsserted, sel := true,
    tr := u.tr ++ [.setSel true] }
  length : frame.length = hdr + v.frameLen
  fits : frame.length ≤ u.cfg.cap
  fbAt : ∀ a, v.fbAt a = frame[a]?.getD (u.fbAt a)

theorem Launched.fbBytes {u v : State} {frame : List Byte} (h : Launched u v frame) :
    v.fbBytes 0 (hdr + v.frameLen) = frame := by
  rw [← h.length]
  exact fbBytes_of_fbAt h.fbAt

theorem Launched.busy {u v : State} {frame : List Byte} (h : Launched u v frame) : v.busy = true := by rw [h.state]
theorem Launched.ph {u v : State} {frame : List Byte} (h : Launched u v frame) : v.ph = .selectAsserted := by
  rw [h.state]
theorem Launched.ready {u v : State} {frame : List Byte} (h : Launched u v frame) : v.ready = u.ready := by rw [h.state]
theorem Launched.rx {u v : State} {frame : List Byte} (h : Launched u v frame) : v.rx = u.rx := by rw [h.state]
theorem Launched.cfg {u v : State} {frame : List Byte} (h : Launched u v frame) : v.cfg = u.cfg := by rw [h.state]

/-- Behind the frame stands what stood there. -/
theorem Launched.junk {u v : State} {frame junk : List Byte} (h : Launched u v frame)
    (hj : junk.length = frame.length) (a : Nat) : junk[a]?.getD (v.fbAt a) = junk[a]?.getD (u.fbAt a) := by
  by_cases ha : a < junk.length
  · rw [List.getElem?_eq_getElem ha]; rfl
  · rw [h.fbAt a, List.getElem?_eq_none (l := frame) (by omega)]; rfl

/-! ### A wait that runs out (R132) -/

theorem diagEvents_eq (s : State) (v : Byte) : s.diagEvents v = diagTail s.verbose s.cmd v := by
  simp [State.diagEvents, diagTail, and_comm]

/-- The failure sequence to its end (R260): two steps of the block, the second from `ERROR`. -/
theorem exchangeError_ends {s : State} (k : ResultKind) (hb : s.busy = true) :
    Within 1 (s.exchangeError k)
      { s.endedWith (ResultCodes.code s.cfg.rc k) [.busReset] with errk := k } := by
  have h : (s.exchangeError k).tick = { s.endedWith (ResultCodes.code s.cfg.rc k) [.busReset] with errk := k } := by
    rw [tick_of_error rfl]
    simp [State.leaveError, State.failWith, State.endOp, State.toPh, State.exchangeError, State.busReset,
      State.endedWith, diagEvents_eq]
  exact .tick hb h

/-- All the samples a bound allows, and none is the awaited level. -/
theorem run_await_timeout (ph next : Phase) (k : ResultKind) (level : Bool) (g : Cfg → Bound)
    (htick : ∀ t : State, t.ph = ph → t.tick = t.awaitStep level (g t.cfg) next k) {m : Nat} (n : Nat) {s : State}
    {l : List Bool} (hb : s.busy = true) (hph : s.ph = ph) (hg : g s.cfg = .fin m) (hspin : s.spin = n + 1)
    (hr : s.ready = List.replicate (n + 1) (!level) ++ l) :
    runToDone (n + 1) s = { s with
      ready := l, tr := s.tr ++ List.replicate (n + 1) (Event.rdRdy (!level)), spin := 0 }.exchangeError k := by
  induction n generalizing s with
  | zero =>
    have hr' : s.ready = (!level) :: l := by simpa using hr
    have hne : ¬ (!level) = level := by cases level <;> nofun
    rw [runToDone_succ hb, runToDone_zero, htick s hph]
    simp [State.awaitStep, nextReady_cons hr', hne, hg, hspin, sampled_cons hr']
  | succ n ih =>
    have hr' : s.ready = (!level) :: (List.replicate (n + 1) (!level) ++ l) := by
      rw [hr, List.replicate_succ]; rfl
    obtain ⟨x, hx, hxs⟩ := awaitStep_miss (b := g s.cfg) (next := next) (k := k) hr' (.inr (by omega))
    have hx' : x = n + 1 := by rw [hxs (by rw [hg]; nofun), hspin]; rfl
    rw [runToDone_succ hb, htick s hph, hx,
      ih (s := { s with ready := _, tr := s.tr ++ [.rdRdy (!level)], spin := x }) hb hph hg hx' rfl]
    simp [List.replicate_succ]

/-- R137: ready never rises. -/
theorem select_times_out {u v : State} {frame : List Byte} {n : Nat} {levels : List Bool} (hv : u.cfg.valid = true)
    (h : Launched u v frame) (hn : u.cfg.tCs = .fin n) (hr : u.ready = List.replicate n false ++ levels) :
    ∃ t, Within (n + 2) v t ∧ t.busy = false ∧ u.SelectTimedOut t frame n levels ∧ t.fb = v.fb := by
  obtain ⟨m, rfl⟩ : ∃ m, n = m + 1 := by
    have hval : u.cfg.tCs.valid = true := check_of_valid hv (by simp [Cfg.checks])
    rw [hn] at hval
    exact ⟨n - 1, by have := of_decide_eq_true hval; omega⟩
  have hload : v.tick = { v with ph := .awaitingReady, spin := m + 1 } := by
    simp [State.tick, h.ph, State.selectStep, State.toPh, State.loadSpin, h.cfg, hn]
  have hwait := run_await_timeout .awaitingReady .transferring .chipSelectTimeout true (·.tCs)
    (fun t h => by simp [State.tick, h, State.readyStep]) m (s := { v with ph := .awaitingReady, spin := m + 1 })
    h.busy rfl (h.cfg ▸ hn) rfl (h.ready ▸ hr)
  refine ⟨_, (((Within.tick h.busy hload).trans (.of_run hwait)).trans
    (exchangeError_ends .chipSelectTimeout h.busy)).mono (by omega), rfl, ⟨?_, h.fbAt⟩, rfl⟩
  rw [h.state]
  simp [State.endedWith, ResultCodes.code]

/-! ### The send, and what may follow it (R136, R138, R139) -/

/-- The frame goes out as one transfer, the header is zeroed, the second wait begins. -/
theorem tick_transferring {s : State} {junk more : List Byte} (hph : s.ph = .transferring) (hrx : s.rx = junk ++ more)
    (hj : junk.length = hdr + s.frameLen) :
    s.tick = State.loadSpin { s with
      fb := memPut s.cfg.cap (memPut s.cfg.cap s.fb 0 junk) 0 [0#8, 0#8, 0#8], rx := more,
      tr := s.tr ++ [.xfer (s.fbBytes 0 (hdr + s.frameLen)) junk], ph := .awaitingReadyRelease } s.cfg.tSrsp := by
  simp only [State.tick, hph, State.sendStep, transfer_listed 0 hrx hj (by simp [hdr])]
  rfl

theorem Launched.junk_length {u v : State} {frame junk : List Byte} (h : Launched u v frame)
    (hj : junk.length = frame.length) : junk.length = hdr + v.frameLen := hj.trans h.length

/-- A state whose `FB` is that of `v` after `junk` and a header have been written over it. -/
theorem Launched.fb_behind {u v t : State} {frame junk header : List Byte} (h : Launched u v frame)
    (hj : junk.length = frame.length) (hh : header.length = 3) (hcap : 3 ≤ u.cfg.cap)
    (ht : t.fb = memPut v.cfg.cap (memPut v.cfg.cap v.fb 0 junk) 0 header) (a : Nat) :
    t.fbAt a = header[a]?.getD (junk[a]?.getD (u.fbAt a)) := by
  have hfits := h.fits
  rw [← h.cfg] at hfits hcap
  rw [fbAt_of_memPut (s := { v with fb := memPut v.cfg.cap v.fb 0 junk }) (by rw [hh]; exact hcap) ht,
    fbAt_of_memPut (s := v) (by omega) rfl, h.junk hj]

/-- The header stands at the head of `FB`, and behind it what came in during the send. -/
theorem header_and_behind {t : State} {header junk : List Byte} {f : Nat → Byte} (hh : header.length = 3)
    (h : ∀ a, t.fbAt a = header[a]?.getD (junk[a]?.getD (f a))) :
    t.fbBytes 0 3 = header ∧ ∀ a, 3 ≤ a → t.fbAt a = junk[a]?.getD (f a) := by
  refine ⟨hh ▸ fbBytes_of_fbAt h, fun a ha => ?_⟩
  rw [h, List.getElem?_eq_none (by omega), Option.getD_none]

/-- R138: the frame goes out and ready never falls. -/
theorem response_times_out {u v : State} {frame junk more : List Byte} {p n : Nat} {levels : List Bool}
    (hv : u.cfg.valid = true) (h : Launched u v frame) (hp : Bound.allows u.cfg.tCs p = true) (hn : u.cfg.tSrsp = .fin n)
    (hj : junk.length = frame.length) (hrx : u.rx = junk ++ more)
    (hr : u.ready = List.replicate p false ++ [true] ++ List.replicate n true ++ levels) :
    ∃ t, Within (p + n + 4) v t ∧ t.busy = false ∧ u.ResponseTimedOut t frame junk p n levels more := by
  obtain ⟨m, rfl⟩ : ∃ m, n = m + 1 := by
    have hval : u.cfg.tSrsp.valid = true := check_of_valid hv (by simp [Cfg.checks])
    rw [hn] at hval
    exact ⟨n - 1, by have := of_decide_eq_true hval; omega⟩
  obtain ⟨x, hselect⟩ := run_select p 0 v (List.replicate (m + 1) true ++ levels) h.busy h.ph (by simp [h.ready, hr])
    (h.cfg ▸ hp)
  obtain ⟨w, hw⟩ : ∃ w, w = { v with
    ready := List.replicate (m + 1) true ++ levels, tr := v.tr ++ (List.replicate p (Event.rdRdy false) ++ [Event.rdRdy true]),
    spin := x, ph := .transferring } := ⟨_, rfl⟩
  rw [runToDone_zero, Nat.zero_add, ← hw] at hselect
  have hwb : w.busy = true := hw ▸ h.busy
  have hsend := tick_transferring (s := w) (more := more) (hw ▸ rfl) (by rw [hw]; exact h.rx ▸ hrx)
    (by rw [hw]; exact h.junk_length hj)
  have hframe : w.fbBytes 0 (hdr + w.frameLen) = frame := by rw [hw]; exact h.fbBytes
  rw [show w.cfg.tSrsp = .fin (m + 1) by rw [hw]; exact h.cfg ▸ hn, hframe] at hsend
  have hwait := run_await_timeout .awaitingReadyRelease .rxHeader .srspTimeout false (·.tSrsp)
    (fun t h => by simp [State.tick, h, State.releaseStep]) m (l := levels) (s := w.tick) (by rw [hsend]; exact hwb)
    (by rw [hsend]; rfl) (by rw [hsend, hw]; exact h.cfg ▸ hn) (by rw [hsend]; rfl) (by rw [hsend, hw]; rfl)
  refine ⟨_, ((((Within.of_run hselect).trans (.tick hwb rfl)).trans (.of_run hwait)).trans
    (exchangeError_ends .srspTimeout (by rw [hsend]; exact hwb))).mono (by omega), rfl, ?_,
    header_and_behind rfl (h.fb_behind hj rfl (by have := le_cap_of_valid hv; omega) ?_)⟩
  · rw [hsend, hw, h.state]
    simp [State.endedWith, ResultCodes.code, sentTrace, State.loadSpin]
  · rw [hsend, hw]
    rfl

/-- R139 b: the header of the response says more than the buffer holds. -/
theorem response_oversize {u v : State} {frame junk more : List Byte} {p q : Nat} {l m b : Byte} {levels : List Bool}
    (hv : u.cfg.valid = true) (h : Launched u v frame) (hp : Bound.allows u.cfg.tCs p = true)
    (hq : Bound.allows u.cfg.tSrsp q = true) (hj : junk.length = frame.length) (hl : u.cfg.nmax < l.toNat)
    (hrx : u.rx = junk ++ [l, m, b] ++ more) (hr : u.ready = readyLevels p q ++ levels) :
    ∃ t, Within (p + q + 6) v t ∧ t.busy = false ∧ u.ResponseOversize t frame junk p q l m b levels more := by
  have hcap : 3 ≤ u.cfg.cap := by have := le_cap_of_valid hv; omega
  obtain ⟨x, hselect⟩ := run_select p 0 v (List.replicate q true ++ false :: levels) h.busy h.ph
    (by simp [h.ready, hr, readyLevels]) (h.cfg ▸ hp)
  obtain ⟨w, hw⟩ : ∃ w, w = { v with
    ready := List.replicate q true ++ false :: levels,
    tr := v.tr ++ (List.replicate p (Event.rdRdy false) ++ [Event.rdRdy true]), spin := x, ph := .transferring } := ⟨_, rfl⟩
  rw [runToDone_zero, Nat.zero_add, ← hw] at hselect
  obtain ⟨y, hsend⟩ := run_send q 0 w levels junk ([l, m, b] ++ more) (hw ▸ h.busy) (hw ▸ rfl) (hw ▸ rfl)
    (by rw [hw]; exact h.cfg ▸ hq) (by rw [hw]; exact h.rx ▸ List.append_assoc .. ▸ hrx)
    (by rw [hw]; exact h.junk_length hj)
  have hframe : w.fbBytes 0 (hdr + w.frameLen) = frame := by rw [hw]; exact h.fbBytes
  rw [runToDone_zero, Nat.zero_add, hframe] at hsend
  obtain ⟨z, hz⟩ : ∃ z, z = runToDone (q + 2) w := ⟨_, rfl⟩
  rw [← hz] at hsend
  have hzb : z.busy = true := by rw [hsend, hw]; exact h.busy
  have hzcfg : z.cfg = u.cfg := by rw [hsend, hw]; exact h.cfg
  have hzeros : z.fbBytes 0 3 = [0#8, 0#8, 0#8] :=
    (header_and_behind rfl (h.fb_behind hj rfl hcap (by rw [hsend, hw]))).1
  have htransfer := transfer_listed (s := z) (n := hdr) (bs := [l, m, b]) (more := more) 0 (by rw [hsend]) rfl (by decide)
  have hlen : (z.transfer 0 hdr).frameLen = l.toNat := by
    have h0 := fbAt_of_memPut (s := z) (t := z.transfer 0 hdr) (bs := [l, m, b]) (by rw [hzcfg]; exact hcap)
      (by rw [htransfer]) 0
    rw [State.frameLen, h0]
    rfl
  have hheader : z.tick = (z.transfer 0 hdr).exchangeError .phyOtherError := by
    have hzcfg' : (z.transfer 0 hdr).cfg = u.cfg := by rw [htransfer]; exact hzcfg
    simp only [State.tick, show z.ph = .rxHeader by rw [hsend], State.headerStep, State.headerReceived, hlen, hzcfg',
      if_pos hl]
  rw [htransfer] at hheader
  refine ⟨_, ((((Within.of_run hselect).trans (.of_run hz.symm)).trans (.tick hzb hheader)).trans
    (exchangeError_ends .phyOtherError hzb)).mono (by omega), rfl, ?_, header_and_behind (f := u.fbAt) rfl fun a => ?_⟩
  · rw [show z.fbBytes 0 hdr = _ from hzeros, hsend, hw, h.state]
    simp [State.endedWith, ResultCodes.code, sentTrace]
  · rw [fbAt_of_memPut (s := z) (bs := [l, m, b]) (by rw [hzcfg]; exact hcap) rfl]
    by_cases ha : a < 3
    · rw [List.getElem?_eq_getElem (by exact ha)]; rfl
    · rw [h.fb_behind (t := z) hj (header := [0#8, 0#8, 0#8]) rfl hcap (by rw [hsend, hw]),
        List.getElem?_eq_none (l := [0#8, 0#8, 0#8]) (by simp; omega), Option.getD_none]

end Sys2Proof.Machine
end

section
/-! SUPPORT. Answered exchanges, the operations up to their first exchange (R160), and the statements about exchanges that
end the operation (R137 to R141). -/
namespace Sys2Proof.Machine

/-! ### An answered exchange (R134, R146) -/

/-- The state in which the response is complete: the answers are used up, `FB` holds the response, select is released. -/
structure Answered (u v w : State) (frame : List Byte) (r : Reply) (levels : List Bool) (more stale : List Byte) :
    Prop where
  state : w = { u with
    fb := w.fb, ds := v.ds, done := v.done, busy := true, ph := .complete, sel := false, spin := w.spin,
    ready := levels, rx := more, tr := u.tr ++ r.trace frame stale }
  fbAt : ∀ a, w.fbAt a = ontoBuffer u.fbAt r a

theorem exchange_answered {u v : State} {frame more : List Byte} {r : Reply} {levels : List Bool}
    (hv : u.cfg.valid = true) (h : Launched u v frame) (hfit : r.Fits u.cfg (frame.length - 3))
    (hr : u.ready = r.levels ++ levels) (hrx : u.rx = r.bytes ++ more) :
    ∃ w stale, stale.length = r.pay.length ∧ Within (r.p + r.q + 6) v w ∧
      Answered u v w frame r levels more stale := by
  obtain ⟨hp, hq, hj, hpay⟩ := hfit
  have hlen := h.length
  have hcap := le_cap_of_valid hv
  have hnmax := nmax_lt_of_valid hv
  have hfits := h.fits
  simp only [hdr] at hlen hj
  obtain ⟨x, stale, hstale, hrun⟩ := run_exchange 0 r.p r.q v levels r.junk r.pay more r.id h.busy h.ph
    (by rw [h.cfg, hdr]; omega) (by rw [h.cfg]; exact hpay) (by omega) (h.cfg ▸ hp) (h.cfg ▸ hq)
    (by rw [hdr]; omega) (h.ready ▸ hr) (h.rx ▸ hrx)
  rw [runToDone_zero, h.fbBytes] at hrun
  refine ⟨_, stale, hstale, .mono (.of_run hrun) (by split <;> omega), ?_, fun a => ?_⟩
  · have htrace : exchangeTrace r.p r.q frame r.junk r.id r.pay stale =
        .setSel true :: (exchangeTrace r.p r.q frame r.junk r.id r.pay stale).tail := rfl
    rw [h.state, Reply.trace, htrace]
    simp
  · rw [exchangedFb_fbAt (s := v) (r := r) (by rw [h.cfg]; omega) (by rw [h.cfg]; simp only [Cfg.nmax, hdr] at hpay; omega)
      rfl, ontoBuffer, ontoBuffer, h.junk (by omega)]

section
variable {u v w : State} {frame more stale : List Byte} {r : Reply} {levels : List Bool}
  (h : Answered u v w frame r levels more stale)
include h

theorem Answered.busy : w.busy = true := by rw [h.state]
theorem Answered.ph : w.ph = .complete := by rw [h.state]
theorem Answered.ds : w.ds = v.ds := by rw [h.state]
theorem Answered.cfg : w.cfg = u.cfg := by rw [h.state]
theorem Answered.cmd : w.cmd = u.cmd := by rw [h.state]
theorem Answered.exp : w.exp = u.exp := by rw [h.state]

theorem Answered.header : w.fbAt 0 = BitVec.ofNat 8 r.pay.length ∧ w.frameCid = r.id := by
  refine ⟨h.fbAt 0, ?_⟩
  have h1 : w.fbAt 1 = msb r.id := h.fbAt 1
  have h2 : w.fbAt 2 = lsb r.id := h.fbAt 2
  rw [State.frameCid, h1, h2, be16_msb_lsb]

/-- The last step of the exchange, when the id is not compared or pairs (R140, R141). -/
theorem Answered.completes (hid : w.polling = true ∨ r.id = u.exp) : Within 1 w (w.toPh .idle).afterExchange := by
  have hm : w.mismatched = false := by
    obtain hp | hid := hid
    · simp [State.mismatched, hp]
    · simp [State.mismatched, h.header.2, h.exp, hid]
  have ht : w.tick = (w.toPh .idle).afterExchange := by
    simp [State.tick, h.ph, State.completeStep, hm]
  exact .tick h.busy ht

/-- The last step of an exchange whose response does not pair (R140). -/
theorem Answered.mispaired (hp : w.polling = false) (hid : r.id ≠ u.exp) :
    Within 1 w (w.exchangeError .incorrectSrsp) := by
  have ht : w.tick = w.exchangeError .incorrectSrsp := by
    simp [State.tick, h.ph, State.completeStep, State.mismatched, hp, h.header.2, h.exp, hid]
  exact .tick h.busy ht

end

/-- R140: the response has another id. -/
theorem response_mispaired {u v : State} {frame more : List Byte} {r : Reply} {levels : List Bool}
    (hv : u.cfg.valid = true) (h : Launched u v frame) (hfit : r.Fits u.cfg (frame.length - 3))
    (hr : u.ready = r.levels ++ levels) (hrx : u.rx = r.bytes ++ more) (hd : v.ds ≠ .dWaitPoll) (hc : u.cmd ≠ 0x02#8)
    (hid : r.id ≠ u.exp) :
    ∃ t, Within (r.p + r.q + 8) v t ∧ t.busy = false ∧ u.ResponseMispaired t frame r levels more := by
  obtain ⟨w, stale, hstale, hrun, hw⟩ := exchange_answered hv h hfit hr hrx
  have hpoll : w.polling = false := by simp [State.polling, hw.ds, hw.cmd, hd, hc]
  refine ⟨_, ((hrun.trans (hw.mispaired hpoll hid)).trans (exchangeError_ends .incorrectSrsp hw.busy)).mono (by omega),
    rfl, stale, hstale, ?_, hw.fbAt⟩
  rw [hw.state]
  simp [State.endedWith, ResultCodes.code]

/-! ### The start of a request and of a poll -/

theorem tick_request {w : State} (hp : w.ph = .idle) (hd : w.ds = .dExchange) (hc : w.cmd ≠ 0x02#8)
    (hn : w.frameLen ≤ w.cfg.nmax) :
    w.tick = ({ w with exp := resp w.frameCid, expv := true }.setSelect true).toPh .selectAsserted := by
  simp [State.tick, hp, State.idlePhaseStep, hd, State.exchangeStep, State.polling, hc, State.requestStart,
    Nat.not_lt.mpr hn]

/-- A request that stands in `FB` and fits (R134). -/
theorem launched_request {u w : State} {len : Byte} {id : Word16} {pay : List Byte} (hb : w.busy = true)
    (hp : w.ph = .idle) (hd : w.ds = .dExchange) (hc : w.cmd ≠ 0x02#8) (hcap : 3 ≤ w.cfg.cap)
    (hlen : pay.length = len.toNat) (hn : len.toNat ≤ w.cfg.nmax)
    (hfb : ∀ a, w.fbAt a = (headerBytes len id ++ pay)[a]?.getD (u.fbAt a))
    (hu : { w with
      fb := u.fb, busy := u.busy, ds := u.ds, done := u.done, ph := u.ph, exp := resp id, expv := true } = u) :
    Launched u w.tick (headerBytes len id ++ pay) := by
  have hwl : w.frameLen = len.toNat := by rw [State.frameLen, hfb]; rfl
  have hwid : w.frameCid = id := by
    rw [State.frameCid, hfb, hfb]
    exact be16_msb_lsb id
  have ht := tick_request hp hd hc (hwl ▸ hn)
  have hl : (headerBytes len id ++ pay).length = 3 + len.toNat := by simp [headerBytes, hlen]; omega
  refine ⟨?_, ?_, ?_, fun a => ht ▸ hfb a⟩
  · rw [ht, hwid, ← hu]
    simp [State.setSelect, State.toPh, hb]
  · rw [hl, ht]
    exact congrArg (3 + ·) hwl.symm
  · simp only [Cfg.nmax, hdr] at hn
    rw [hl, ← hu]
    show 3 + len.toNat ≤ w.cfg.cap
    omega

/-- A poll, whatever stands in `FB` (R136). -/
theorem launched_poll {u w : State} (hb : w.busy = true) (hp : w.ph = .idle)
    (hd : w.ds = .dExchange ∨ w.ds = .dWaitPoll) (hpoll : w.polling = true) (hcap : 3 ≤ w.cfg.cap)
    (hu : { w with busy := u.busy, ds := u.ds, done := u.done, ph := u.ph, expv := false } = u) :
    Launched u w.tick [0#8, 0#8, 0#8] := by
  have ht : w.tick = w.pollStart := by
    obtain hd | hd := hd <;> simp only [State.tick, hp, State.idlePhaseStep, hd, State.exchangeStep, hpoll, if_true]
  have hfb (a : Nat) : w.tick.fbAt a = [0#8, 0#8, 0#8][a]?.getD (w.fbAt a) :=
    fbAt_of_memPut (bs := [0#8, 0#8, 0#8]) hcap (by rw [ht]; rfl) a
  have hufb (a : Nat) : u.fbAt a = w.fbAt a := by rw [← hu]; rfl
  refine ⟨?_, ?_, by rw [← hu]; exact hcap, fun a => by rw [hfb, hufb]⟩
  · rw [ht, ← hu]
    simp [State.pollStart, State.setSelect, State.toPh, State.zeroHeader, State.fbPut, hb]
  · rw [State.frameLen, hfb]
    rfl

theorem msb_be16 (b c : Byte) : msb (be16 b c) = b := by
  apply BitVec.eq_of_toNat_eq
  simp only [msb, be16, BitVec.toNat_setWidth, BitVec.toNat_ushiftRight, BitVec.toNat_append]
  have := c.isLt
  have := b.isLt
  rw [← Nat.shiftLeft_add_eq_or_of_lt c.isLt, Nat.shiftLeft_eq, Nat.shiftRight_eq_div_pow]
  omega

theorem lsb_be16 (b c : Byte) : lsb (be16 b c) = c := by
  apply BitVec.eq_of_toNat_eq
  simp only [lsb, be16, BitVec.toNat_setWidth, BitVec.toNat_append]
  have := c.isLt
  rw [← Nat.shiftLeft_add_eq_or_of_lt c.isLt, Nat.shiftLeft_eq]
  omega

/-- The frame in `FB`: its header and its payload. -/
theorem fbBytes_frame (s : State) (n : Nat) :
    s.fbBytes 0 (3 + n) = headerBytes (s.fbAt 0) s.frameCid ++ s.fbBytes 3 n := by
  simp [State.fbBytes, List.range_add, List.range_succ, headerBytes, State.frameCid, msb_be16, lsb_be16]

theorem fbAt_own_frame (s : State) (n a : Nat) :
    s.fbAt a = (headerBytes (s.fbAt 0) s.frameCid ++ s.fbBytes 3 n)[a]?.getD (s.fbAt a) := by
  rw [← fbBytes_frame]
  exact fbAt_of_frame (s := s) (by rw [fbBytes_length]) (fun _ _ => rfl) a

/-- A header written over a payload that stands in `FB` already (R162). -/
theorem fbAt_header_over (s : State) (len : Byte) (id : Word16) (n a : Nat) :
    (headerBytes len id ++ s.fbBytes 3 n)[a]?.getD (s.fbAt a) = (headerBytes len id)[a]?.getD (s.fbAt a) := by
  by_cases ha : a < 3
  · rw [List.getElem?_append_left ha]
  · have hl : (headerBytes len id).length = 3 := rfl
    have hown := fbAt_own_frame s n a
    rw [List.getElem?_append_right (by rw [hl]; omega), List.getElem?_eq_none (l := headerBytes len id) (by rw [hl]; omega)]
    rwa [List.getElem?_append_right (by simp [headerBytes]; omega), eq_comm] at hown

/-- The exchange a running operation is about to start (R160, R166). -/
theorem launched_of_starting {s u : State} {frame : List Byte} (hv : s.cfg.valid = true)
    (h : s.starting = some (frame, u)) :
    s.busy = true ∧ Launched u s.tick frame ∧ s.tick.ds = s.ds ∧ u.cfg = s.cfg ∧ u.ready = s.ready ∧ u.rx = s.rx ∧
      u.cmd = s.cmd := by
  have hcap : 3 ≤ s.cfg.cap := by have := le_cap_of_valid hv; omega
  unfold State.starting at h
  split at h
  case isFalse => cases h
  case isTrue hstart =>
    obtain ⟨hb, hp, hd⟩ := hstart
    have hds : s.tick.ds = s.ds := by
      have ht : s.tick = s.exchangeStep := by
        obtain hd | hd := hd <;> simp only [State.tick, hp, State.idlePhaseStep, hd]
      rw [ht]
      exact (shifts_exchangeStep s).ds
    split at h
    · next hpoll =>
      cases h
      exact ⟨hb, launched_poll hb hp hd (by obtain h | h := hpoll <;> simp [State.polling, h]) hcap rfl, hds, rfl, rfl,
        rfl, rfl⟩
    · next hpoll =>
      obtain ⟨hw, hc⟩ := not_or.mp hpoll
      split at h
      case isFalse => cases h
      case isTrue hn =>
        cases h
        rw [fbBytes_frame]
        refine ⟨hb, launched_request hb hp (hd.resolve_right hw) hc hcap (fbBytes_length s 3 _) hn ?_ rfl, hds,
          rfl, rfl, rfl, rfl⟩
        intro a
        exact (fbAt_own_frame s s.frameLen a).trans (by simp only [State.fbAt])

/-! ### From the `CMD` write to the first exchange (R160, R162, R170, R190, R196) -/

/-- The operation `i` of opcode `op`, started at `s`, is about to send `frame`. -/
structure Opens (i : Instr) (s u : State) (frame : List Byte) (op : Byte) (v : State) : Prop where
  opcode : decodeOp op = .ok i
  run : Within 3 (s.beginOp op) v
  launched : Launched u v frame
  ds : v.ds = .dExchange
  cfg : u.cfg = s.cfg
  ready : u.ready = s.ready
  rx : u.rx = s.rx
  cmd : u.cmd = op

/-- The operations that build their frame: header at `D_VALIDATE`, payload at `D_BUILD`. -/
theorem opens_built {i : Instr} {op : Byte} {s u b w : State} {len : Byte} {id : Word16} {pay : List Byte}
    (hs : s.Startable) (hop : decodeOp op = .ok i) (hstart : startState op = .dValidate) (hne : op ≠ 0x02#8)
    (hb : (s.beginOp op).validateStep = b) (hbuilds : b.busy = true ∧ b.ph = .idle ∧ b.ds = .dBuild ∧ b.cmd = op)
    (hw : b.buildStep = w) (hlen : pay.length = len.toNat) (hn : len.toNat ≤ s.cfg.nmax)
    (hfb : ∀ a, w.fbAt a = (headerBytes len id ++ pay)[a]?.getD (u.fbAt a))
    (hu : { w with
      fb := u.fb, busy := u.busy, ds := u.ds, done := u.done, ph := u.ph, exp := resp id, expv := true } = u)
    (hbus : w.cfg = s.cfg ∧ w.ready = s.ready ∧ w.rx = s.rx) :
    ∃ v, Opens i s u (headerBytes len id ++ pay) op v := by
  obtain ⟨⟨-, hp, -, -⟩, hv, -⟩ := hs
  obtain ⟨hbb, hbp, hbd, hbc⟩ := hbuilds
  obtain ⟨hcfg, hready, hrx⟩ := hbus
  have hbt : b.tick = w := by simp only [State.tick, State.idlePhaseStep, hbp, hbd, hw]
  have hgoes := hw ▸ buildStep_goes b
  have hwb : w.busy = true := hgoes.busy.trans hbb
  have hwp : w.ph = .idle := hgoes.ph.trans hbp
  have hwc : w.cmd = op := hgoes.held.cmd.trans hbc
  have hvalidate : (s.beginOp op).tick = b :=
    (tick_validate (b := s.beginOp op) hp hstart).trans hb
  have hrun : Within 3 (s.beginOp op) w.tick :=
    ((Within.tick rfl hvalidate).trans (.tick hbb hbt)).trans (.tick hwb rfl)
  have hds : w.tick.ds = .dExchange := by
    have ht : w.tick = w.exchangeStep := by simp only [State.tick, hwp, State.idlePhaseStep, hgoes.ds]
    rw [ht, (shifts_exchangeStep w).ds, hgoes.ds]
  refine ⟨w.tick, hop, hrun, launched_request hwb hwp hgoes.ds (hwc ▸ hne) ?_ hlen (hcfg ▸ hn) hfb hu, hds, ?_, ?_, ?_, ?_⟩
  · rw [hcfg]
    have := le_cap_of_valid hv
    omega
  all_goals rw [← hu]; assumption

theorem opens_xchgRr {s u : State} {frame : List Byte} (hs : s.Startable) (h : s.opening .xchgRr = some (frame, u)) :
    ∃ v, Opens .xchgRr s u frame 0x01#8 v ∧ v.fb = s.fb := by
  obtain ⟨⟨-, hp, -, -⟩, hv, -⟩ := hs
  obtain ⟨hn, h⟩ := Option.ite_none_right_eq_some.mp h
  cases h
  have ht : (s.beginOp 0x01#8).tick = _ := tick_request hp rfl (by decide : (0x01#8 : Byte) ≠ 0x02#8) hn
  rw [fbBytes_frame]
  refine ⟨(s.beginOp 0x01#8).tick, ⟨rfl, (Within.tick rfl rfl).mono (by omega), launched_request rfl hp rfl
    (by decide : (0x01#8 : Byte) ≠ 0x02#8) ?_ (fbBytes_length s 3 _) hn (fun a => ?_) ?_, by rw [ht]; rfl, rfl, rfl, rfl,
    rfl⟩, by rw [ht]; rfl⟩
  · show 3 ≤ s.cfg.cap
    have := le_cap_of_valid hv
    omega
  · exact (fbAt_own_frame s s.frameLen a).trans (by simp only [State.fbAt])
  · simp [State.beginOp]

theorem opens_xchgPoll {s u : State} {frame : List Byte} (hs : s.Startable)
    (h : s.opening .xchgPoll = some (frame, u)) : ∃ v, Opens .xchgPoll s u frame 0x02#8 v := by
  obtain ⟨⟨-, hp, -, -⟩, hv, -⟩ := hs
  cases h
  refine ⟨_, rfl, (Within.tick rfl rfl).mono (by omega), launched_poll rfl hp (.inl rfl) rfl ?_ ?_, ?_, rfl, rfl, rfl, rfl⟩
  · show 3 ≤ s.cfg.cap
    have := le_cap_of_valid hv
    omega
  · simp [State.beginOp]
  · have ht : (s.beginOp 0x02#8).tick = (s.beginOp 0x02#8).exchangeStep := by
      simp only [State.tick, beginOp_ph, hp, State.idlePhaseStep]
      rfl
    rw [ht, (shifts_exchangeStep _).ds]
    rfl

theorem startBuild_fbAt {s : State} (hcap : 3 ≤ s.cfg.cap) (n : Nat) (id : Word16) (a : Nat) :
    (s.startBuild n id).fbAt a = (headerBytes (BitVec.ofNat 8 n) id)[a]?.getD (s.fbAt a) :=
  fbAt_of_memPut (bs := headerBytes (BitVec.ofNat 8 n) id) hcap rfl a

theorem opens_sreq {s u : State} {frame : List Byte} (hs : s.Startable) (h : s.opening .sreq = some (frame, u)) :
    ∃ v, Opens .sreq s u frame 0x10#8 v := by
  have hcap : 3 ≤ s.cfg.cap := by have := le_cap_of_valid hs.2.1; omega
  obtain ⟨hn, h⟩ := Option.ite_none_right_eq_some.mp h
  cases h
  have hlen : BitVec.ofNat 8 s.a.len.toNat = s.a.len := by simp
  have hvalidate : (s.beginOp 0x10#8).validateStep = (s.beginOp 0x10#8).startBuild s.a.len.toNat s.a.cid :=
    if_neg (Nat.not_lt.mpr hn)
  refine opens_built hs rfl rfl (by decide) hvalidate ⟨rfl, hs.1.2.1, rfl, rfl⟩ (if_pos rfl) (fbBytes_length s 3 _) hn
    (fun a => ?_) ?_ ⟨rfl, rfl, rfl⟩
  · have hput := startBuild_fbAt (s := s.beginOp 0x10#8) hcap s.a.len.toNat s.a.cid a
    rw [hlen] at hput
    exact hput.trans ((fbAt_header_over s s.a.len s.a.cid s.a.len.toNat a).symm.trans (by simp only [State.fbAt]))
  · simp [State.beginOp, State.startBuild, State.putHeader, State.fbPut, State.toDs]

theorem startBuild_fbAt_behind {s : State} (hcap : 3 ≤ s.cfg.cap) (n : Nat) (id : Word16) {a : Nat} (ha : 3 ≤ a) :
    (s.startBuild n id).fbAt a = s.fbAt a := by
  rw [startBuild_fbAt hcap, List.getElem?_eq_none (by exact ha), Option.getD_none]

/-- The operations whose frame is a row of the table (entry 6): `b` is the state whose header is written, `t` the one the
row leaves. -/
theorem opens_row {i row : Instr} {op : Byte} {s u b t : State} {n : Nat} {id : Word16} {pay : List Byte}
    (hs : s.Startable) (hop : decodeOp op = .ok i) (hstart : startState op = .dValidate) (hne : op ≠ 0x02#8)
    (hne' : op ≠ 0x10#8) (hb : (s.beginOp op).validateStep = b.startBuild n id)
    (hbegun : b.busy = true ∧ b.ph = .idle ∧ b.cmd = op ∧ b.cfg = s.cfg ∧ ∀ a, b.fbAt a = u.fbAt a)
    (hrow : (b.startBuild n id).frameToBuild = some row) (hexec : exec row (b.startBuild n id) = .next t)
    (hlen : pay.length = n) (hn : n ≤ s.cfg.nmax)
    (hframe : t.fbBytes 0 (3 + n) = headerBytes (BitVec.ofNat 8 n) id ++ pay)
    (hrest : ∀ a, 3 + n ≤ a → t.fbAt a = (b.startBuild n id).fbAt a)
    (hu : { t with
      fb := u.fb, busy := u.busy, ds := u.ds, done := u.done, ph := u.ph, exp := resp id, expv := true } = u)
    (hbus : t.cfg = s.cfg ∧ t.ready = s.ready ∧ t.rx = s.rx) :
    ∃ v, Opens i s u (headerBytes (BitVec.ofNat 8 n) id ++ pay) op v := by
  have ⟨_, hv, _⟩ := hs
  have hcap := le_cap_of_valid hv
  have hnmax := nmax_lt_of_valid hv
  obtain ⟨hbb, hbp, hbc, hbcfg, hbfb⟩ := hbegun
  have hn' : (BitVec.ofNat 8 n).toNat = n := by rw [BitVec.toNat_ofNat]; omega
  have hbuild : (b.startBuild n id).buildStep = t :=
    Host.Outcome.next.inj ((exec_frameToBuild (by show b.cmd ≠ _; rw [hbc]; exact hne') hrow).symm.trans hexec)
  have hl : (headerBytes (BitVec.ofNat 8 n) id ++ pay).length = 3 + n := by simp [headerBytes, hlen]; omega
  refine opens_built hs hop hstart hne hb ⟨hbb, hbp, rfl, hbc⟩ hbuild (hlen.trans hn'.symm) (hn'.symm ▸ hn)
    (fbAt_of_frame (hl.symm ▸ hframe) fun a ha => ?_) hu hbus
  rw [hrest a (by omega), startBuild_fbAt_behind (by rw [hbcfg]; omega) n id (by omega), hbfb]

theorem frameToBuild_request {s : State} (h0 : s.fbAt 0 ≠ 0#8) (hid : s.frameCid = s.cfg.cid.afDataRequest) :
    s.frameToBuild = some (.afDataRequest (s.fbAt 0)) := by
  simp [State.frameToBuild, decodeTx, h0, hid]

theorem frameToBuild_requestExt {s : State} (hv : s.cfg.valid = true) (h0 : s.fbAt 0 ≠ 0#8)
    (hl : s.fbAt 0 = BitVec.ofNat 8 s.cfg.schema.sendExt.fixed) (hid : s.frameCid = s.cfg.cid.afDataRequestExt) :
    s.frameToBuild = some .afDataRequestExt := by
  obtain ⟨hne, -⟩ := request_ids_of_valid hv
  rw [State.frameToBuild, decodeTx, if_neg (fun h => h0 h.1), if_neg (hid ▸ hne.symm), if_pos ⟨hid, hl⟩]

theorem frameToBuild_retrieve {s : State} (hv : s.cfg.valid = true) (h0 : s.fbAt 0 ≠ 0#8)
    (hl : s.fbAt 0 = BitVec.ofNat 8 s.cfg.schema.retrieve.fixed) (hid : s.frameCid = s.cfg.cid.afDataRetrieve) :
    s.frameToBuild = some .afDataRetrieve := by
  obtain ⟨-, -, -, hne, hnex⟩ := request_ids_of_valid hv
  have hnes : s.cfg.cid.afDataRetrieve ≠ s.cfg.cid.afDataStore := by
    have hnodup := (List.nodup_append.mp (ids_nodup_of_valid hv)).1
    simp only [CommandIds.requests, List.nodup_cons, List.mem_cons, not_or] at hnodup
    exact Ne.symm hnodup.2.2.1.1
  rw [State.frameToBuild, decodeTx, if_neg (fun h => h0 h.1), if_neg (hid ▸ hne), if_neg (fun h => hnex (hid ▸ h.1)),
    if_neg (hid ▸ hnes), if_pos ⟨hid, hl⟩]

theorem opens_afsend {s u : State} {frame : List Byte} (hs : s.Startable) (h : s.opening .afsend = some (frame, u)) :
    ∃ v, Opens .afsend s u frame 0x11#8 v := by
  have ⟨⟨_, hp, _, _⟩, hv, _⟩ := hs
  obtain ⟨hk, h⟩ := Option.ite_none_right_eq_some.mp h
  cases h
  obtain ⟨n, hn⟩ : ∃ n, n = 10 + s.a.dlen.toNat := ⟨_, rfl⟩
  have hle : n ≤ s.cfg.nmax := by
    have hmax := afMaxData_of_valid hv
    have hdlen := dlen_le_of_afsendCheck hk
    simp only [requestFixed] at hmax
    omega
  have hnmax := nmax_lt_of_valid hv
  have hlen : (BitVec.ofNat 8 n).toNat = n := by rw [BitVec.toNat_ofNat]; omega
  have hvalidate : (s.beginOp 0x11#8).validateStep = (s.beginOp 0x11#8).startBuild n s.cfg.cid.afDataRequest := by
    have hr : (s.beginOp 0x11#8).running = some .afsend := rfl
    have hk' : (s.beginOp 0x11#8).afsendCheck = none := hk
    simp only [State.validateStep, hr, hk', hn]
    rfl
  obtain ⟨h0, hid⟩ := startBuild_header (s := s.beginOp 0x11#8) hv n s.cfg.cid.afDataRequest
  have hrow := frameToBuild_request (by rw [h0]; exact ofNat_ne_zero (by omega) (by omega)) hid
  rw [h0] at hrow
  have hcap : 3 + n ≤ s.cfg.cap := by
    have := le_cap_of_valid hv
    simp only [Cfg.nmax, hdr] at hle
    omega
  obtain ⟨t, hexec, ht, hframe, hrest⟩ := sendDataRequestFrame
    ((s.beginOp 0x11#8).startBuild n s.cfg.cid.afDataRequest) _ (by rw [hlen]; omega) (by rw [hlen]; exact hcap)
  rw [hlen] at hframe hrest
  have hdata : n - 10 = s.a.dlen.toNat := by omega
  rw [hdata] at hframe
  have hpay : s.sendDataFrame s.a.dlen.toNat =
      headerBytes (BitVec.ofNat 8 n) s.cfg.cid.afDataRequest ++ (s.sendDataFrame s.a.dlen.toNat).drop 3 := by rw [hn]; rfl
  rw [hpay]
  refine opens_row hs rfl rfl (by decide) (by decide) hvalidate ⟨rfl, hp, rfl, rfl, fun _ => rfl⟩ hrow hexec ?_ hle
    (hframe.trans hpay) hrest ?_ ?_
  · simp [State.sendDataFrame]
    omega
  · rw [ht]
    simp [State.beginOp, State.startBuild, State.putHeader, State.fbPut, State.toDs]
  · rw [ht]
    exact ⟨rfl, rfl, rfl⟩

theorem opens_afsendx {s u : State} {frame : List Byte} (hs : s.Startable) (h : s.opening .afsendx = some (frame, u)) :
    ∃ v, Opens .afsendx s u frame 0x12#8 v := by
  have ⟨⟨_, hp, _, _⟩, hv, _⟩ := hs
  obtain ⟨⟨hk, hschema⟩, h⟩ := Option.ite_none_right_eq_some.mp h
  cases h
  have hcap := le_cap_of_valid hv
  obtain ⟨b, hb⟩ : ∃ b : State, b = { s.beginOp 0x12#8 with begun := false } := ⟨_, rfl⟩
  have hbschema : b.cfg.schema = Config.layouts := by rw [hb]; exact hschema
  have hbcfg : b.cfg = s.cfg := by rw [hb]; rfl
  have hvalidate : (s.beginOp 0x12#8).validateStep = b.startBuild 20 s.cfg.cid.afDataRequestExt := by
    have hr : (s.beginOp 0x12#8).running = some .afsendx := rfl
    have hk' : (s.beginOp 0x12#8).afsendxCheck = none := hk
    have hfixed : (s.beginOp 0x12#8).cfg.schema.sendExt.fixed = 20 := by rw [beginOp_cfg, hschema]; rfl
    simp only [State.validateStep, hr, hk', hfixed, hb]
    rfl
  obtain ⟨h0, hid⟩ := startBuild_header (hbcfg ▸ hv) 20 s.cfg.cid.afDataRequestExt
  have hrow := frameToBuild_requestExt (s := b.startBuild 20 s.cfg.cid.afDataRequestExt) (by exact hbcfg ▸ hv)
    (by rw [h0]; decide) (by rw [h0]; exact (congrArg (fun c => BitVec.ofNat 8 c.sendExt.fixed) hbschema).symm)
    (by rw [hid, ← hbcfg]; rfl)
  obtain ⟨t, hexec, ht, hframe, hrest⟩ := beginExtendedFrame (b.startBuild 20 s.cfg.cid.afDataRequestExt) hbschema
    (by show 23 ≤ b.cfg.cap; rw [hbcfg]; omega)
  have hpay : s.beginFrame = headerBytes (BitVec.ofNat 8 20) s.cfg.cid.afDataRequestExt ++ s.beginFrame.drop 3 := rfl
  rw [hpay]
  refine opens_row hs rfl rfl (by decide) (by decide) hvalidate ⟨hb ▸ rfl, hb ▸ hp, hb ▸ rfl, hbcfg, fun _ => hb ▸ rfl⟩
    hrow hexec rfl ?_ (hframe.trans (by rw [hb]; exact hpay)) hrest ?_ ?_
  · simp only [Cfg.nmax, hdr]
    omega
  · rw [ht, hb]
    simp [State.beginOp, State.startBuild, State.putHeader, State.fbPut, State.toDs]
  · rw [ht, hb]
    exact ⟨rfl, rfl, rfl⟩

/-- The retrieve request under the default layout (R105, R198). -/
theorem buildRetrieve_frame {s : State} (h : s.cfg.schema = Config.layouts) (hcap : 10 ≤ s.cfg.cap) :
    s.buildRetrieve = { s with fb := s.buildRetrieve.fb, ds := .dExchange } ∧
      s.buildRetrieve.fbBytes 0 10 = s.retrieveFrame s.xoff.toNat s.chunkLen ∧
      ∀ a, 10 ≤ a → s.buildRetrieve.fbAt a = s.fbAt a := by
  refine ⟨by rw [State.buildRetrieve, putFields_eq]; rfl,
    built_frame (fs := s.retrieveFields) (len := 7#8) (id := s.cfg.cid.afDataRetrieve) ?_ ?_ rfl hcap ?_⟩
  · simp [State.retrieveFields, h, Config.layouts, fieldBytes, InRow, hdr]
  · have hx : BitVec.ofNat 16 s.xoff.toNat = s.xoff := by simp
    simp [State.retrieveFields, h, Config.layouts, fieldBytes, State.retrieveFrame, leBytes_two, leBytes_four, leBytes, hx]
  · simp [State.buildRetrieve, h, Config.layouts]

theorem opens_afretrx {s u : State} {frame : List Byte} (hs : s.Startable) (h : s.opening .afretrx = some (frame, u)) :
    ∃ v, Opens .afretrx s u frame 0x13#8 v := by
  have ⟨⟨_, hp, _, _⟩, hv, _⟩ := hs
  obtain ⟨⟨hk, hschema⟩, h⟩ := Option.ite_none_right_eq_some.mp h
  cases h
  have hcap := le_cap_of_valid hv
  obtain ⟨b, hb⟩ : ∃ b : State, b = { s.beginOp 0x13#8 with xoff := 0 } := ⟨_, rfl⟩
  have hbschema : b.cfg.schema = Config.layouts := by rw [hb]; exact hschema
  have hbcfg : b.cfg = s.cfg := by rw [hb]; rfl
  have hvalidate : (s.beginOp 0x13#8).validateStep = b.startBuild 7 s.cfg.cid.afDataRetrieve := by
    have hr : (s.beginOp 0x13#8).running = some .afretrx := rfl
    have hk' : (s.beginOp 0x13#8).afretrxCheck = none := hk
    have hfixed : (s.beginOp 0x13#8).cfg.schema.retrieve.fixed = 7 := by rw [beginOp_cfg, hschema]; rfl
    simp only [State.validateStep, hr, hk', hfixed, hb]
    rfl
  obtain ⟨h0, hid⟩ := startBuild_header (hbcfg ▸ hv) 7 s.cfg.cid.afDataRetrieve
  have hrow := frameToBuild_retrieve (s := b.startBuild 7 s.cfg.cid.afDataRetrieve) (by exact hbcfg ▸ hv)
    (by rw [h0]; decide) (by rw [h0]; exact (congrArg (fun c => BitVec.ofNat 8 c.retrieve.fixed) hbschema).symm)
    (by rw [hid, ← hbcfg]; rfl)
  obtain ⟨ht, hframe, hrest⟩ := buildRetrieve_frame (s := b.startBuild 7 s.cfg.cid.afDataRetrieve) hbschema
    (by show 10 ≤ b.cfg.cap; rw [hbcfg]; omega)
  have hchunk : (b.startBuild 7 s.cfg.cid.afDataRetrieve).retrieveFrame 0
      (b.startBuild 7 s.cfg.cid.afDataRetrieve).chunkLen = s.retrieveFrame 0 (s.chunkSize 0) := by
    have h0 : s.chunkAt 0 = 0 := by simp [State.chunkAt]
    rw [State.chunkSize, h0, hb]
    rfl
  have hxoff : (b.startBuild 7 s.cfg.cid.afDataRetrieve).xoff.toNat = 0 := by rw [hb]; rfl
  rw [hxoff, hchunk] at hframe
  have hpay : s.retrieveFrame 0 (s.chunkSize 0) =
      headerBytes (BitVec.ofNat 8 7) s.cfg.cid.afDataRetrieve ++ (s.retrieveFrame 0 (s.chunkSize 0)).drop 3 := rfl
  rw [hpay]
  refine opens_row hs rfl rfl (by decide) (by decide) hvalidate ⟨hb ▸ rfl, hb ▸ hp, hb ▸ rfl, hbcfg, fun _ => hb ▸ rfl⟩
    hrow rfl rfl ?_ (hframe.trans hpay) hrest ?_ ?_
  · simp only [Cfg.nmax, hdr]
    omega
  · rw [ht, hb]
    simp [State.beginOp, State.startBuild, State.putHeader, State.fbPut, State.toDs]
  · rw [ht, hb]
    exact ⟨rfl, rfl, rfl⟩

end Sys2Proof.Machine
end

section
/-! SUPPORT. The statements about exchanges: the two exchange operations answered (R146), and every operation whose first
exchange fails, or a running one's next (R138 to R140). -/
namespace Sys2Proof.Machine

/-! ### First exchanges and running ones -/

theorem opens_of_opening {i : Instr} {s u : State} {frame : List Byte} (hs : s.Startable)
    (h : s.opening i = some (frame, u)) : ∃ op v, Opens i s u frame op v ∧ (i = .xchgRr → v.fb = s.fb) := by
  have other {op : Byte} (hi : i ≠ .xchgRr) (ho : ∃ v, Opens i s u frame op v) :
      ∃ op v, Opens i s u frame op v ∧ (i = .xchgRr → v.fb = s.fb) := by
    obtain ⟨v, ho⟩ := ho
    exact ⟨op, v, ho, fun h => absurd h hi⟩
  cases i
  case xchgRr =>
    obtain ⟨v, ho, hfb⟩ := opens_xchgRr hs h
    exact ⟨_, v, ho, fun _ => hfb⟩
  case xchgPoll => exact other nofun (opens_xchgPoll hs h)
  case sreq => exact other nofun (opens_sreq hs h)
  case afsend => exact other nofun (opens_afsend hs h)
  case afsendx => exact other nofun (opens_afsendx hs h)
  case afretrx => exact other nofun (opens_afretrx hs h)
  all_goals cases h

theorem exec_of_opens {i : Instr} {s u v t : State} {frame : List Byte} {op : Byte} {n : Nat} (hs : s.Startable)
    (ho : Opens i s u frame op v) (h : Within n v t) (ht : t.busy = false) (hn : n + 3 ≤ s.allowance) :
    exec i s = .next t :=
  exec_within ho.opcode hs (ho.run.trans h) (by omega) ht

/-- One exchange and a few steps more are allowed. -/
theorem exchange_allowed {s : State} {p q : Nat} (hp : p ≤ Bound.samples s.cfg.tCs s.ready.length)
    (hq : q ≤ Bound.samples s.cfg.tSrsp s.ready.length) : p + q + 16 ≤ s.allowance := by
  have hone := Nat.le_mul_of_pos_left
    (Bound.samples s.cfg.tCs s.ready.length + Bound.samples s.cfg.tSrsp s.ready.length + 16)
    (show 0 < s.a.tmo.toNat * 1000 + 8 by omega)
  have := allowance_ge s
  omega

theorem readyLevels_length (p q : Nat) : (readyLevels p q).length = p + q + 2 := by
  simp [readyLevels]
  omega

/-- The waits of an answered exchange among the listed levels, by the bounds (R132). -/
theorem reply_allowed {s : State} {p q : Nat} {levels : List Bool} (hp : Bound.allows s.cfg.tCs p = true)
    (hq : Bound.allows s.cfg.tSrsp q = true) (hr : s.ready = readyLevels p q ++ levels) : p + q + 16 ≤ s.allowance := by
  have hl : s.ready.length = p + q + 2 + levels.length := by rw [hr, List.length_append, readyLevels_length]
  exact exchange_allowed (le_samples_of_allows hp (by omega)) (le_samples_of_allows hq (by omega))

theorem run_of_starting {s u t : State} {frame : List Byte} {n : Nat} (hv : s.cfg.valid = true)
    (h : s.starting = some (frame, u)) (hrun : Within n s.tick t) : ∃ m, runToDone m s = t := by
  obtain ⟨hb, -⟩ := launched_of_starting hv h
  obtain ⟨m, -, hm⟩ := (Within.tick hb rfl).trans hrun
  exact ⟨m, hm⟩

/-! ### `XCHG.RR` and `XCHG.POLL` answered (R140, R141, R146) -/

theorem xchg_succeeds {i : Instr} {s u v : State} {frame more : List Byte} {op : Byte} {r : Reply} {levels : List Bool}
    (hs : s.Startable) (ho : Opens i s u frame op v) (hop : op = 0x01#8 ∨ op = 0x02#8)
    (hfit : r.Fits s.cfg (frame.length - 3)) (hid : op = 0x02#8 ∨ r.id = u.exp) (hr : s.ready = r.levels ++ levels)
    (hrx : s.rx = r.bytes ++ more) :
    ∃ t stale, exec i s = .next t ∧ stale.length = r.pay.length ∧
      t = { u with
        busy := false, done := true, ds := .dIdle, ph := .idle, sel := false, res := 0#8, spin := t.spin, fb := t.fb,
        ready := levels, rx := more, tr := u.tr ++ r.trace frame stale } ∧
      ∀ a, t.fbAt a = ontoBuffer u.fbAt r a := by
  obtain ⟨w, stale, hstale, hrun, hw⟩ := exchange_answered (ho.cfg ▸ hs.2.1) ho.launched (ho.cfg ▸ hfit)
    (ho.ready ▸ hr) (ho.rx ▸ hrx)
  have hallowed := reply_allowed hfit.1 hfit.2.1 hr
  have hpoll : w.polling = true ∨ r.id = u.exp :=
    hid.imp_left fun h => by simp [State.polling, hw.cmd, ho.cmd, h]
  have hlast := hw.completes hpoll
  rw [afterExchange_xchg (s := w.toPh .idle) (by rw [toPh_cmd, hw.cmd, ho.cmd]; exact hop)
    (by rw [toPh_ds, hw.ds, ho.ds]; nofun)] at hlast
  refine ⟨_, stale, exec_of_opens hs ho (hrun.trans hlast) rfl (by omega), hstale, ?_, hw.fbAt⟩
  rw [hw.state]
  simp [State.endOp, State.toPh, diagEvents_zero]

/-- Settles O25: the request of `XCHG.RR` is answered with the id it pairs with. -/
theorem requestResponseSucceeds : Obligations.RequestResponseSucceeds := by
  intro s r levels more hs hn hfit hid hr hrx
  have ⟨⟨hb, hp, hd, hsel⟩, _⟩ := hs
  obtain ⟨v, ho, -⟩ := opens_xchgRr hs (if_pos hn)
  obtain ⟨t, stale, hexec, hstale, ht, hfb⟩ := xchg_succeeds hs ho (.inl rfl) (by simpa using hfit) (.inr hid) hr hrx
  refine ⟨t, stale, hexec, hstale, ?_, fbBytes_ontoBuffer hfb, fun a ha ha' => ?_, fun a ha ha' => ?_⟩
  · rw [ht]
    simp [hb, hp, hd, hsel]
  · have hj : a < r.junk.length := by rw [hfit.2.2.1, hdr]; exact ha'
    rw [hfb, ontoBuffer_behind ha, List.getElem?_eq_getElem hj]
    rfl
  · rw [hfb, ontoBuffer_behind ha, List.getElem?_eq_none (by rw [hfit.2.2.1, hdr]; exact ha')]
    rfl

/-- Settles O26: the poll takes whatever id the answer has. -/
theorem pollSucceeds : Obligations.PollSucceeds := by
  intro s r levels more hs hfit hr hrx
  have ⟨⟨hb, hp, hd, hsel⟩, _⟩ := hs
  obtain ⟨v, ho⟩ := opens_xchgPoll hs rfl
  obtain ⟨t, stale, hexec, hstale, ht, hfb⟩ := xchg_succeeds hs ho (.inr rfl) hfit (.inl rfl) hr hrx
  refine ⟨t, stale, hexec, hstale, ?_, fbBytes_ontoBuffer hfb, fun a ha => ?_⟩
  · rw [ht]
    simp [hb, hp, hd, hsel]
  · rw [hfb, ontoBuffer_behind ha, List.getElem?_eq_none (by rw [hfit.2.2.1, hdr]; omega)]
    rfl

/-! ### Failing exchanges -/

/-- Settles O28: a first exchange and a running one both fail as `response_times_out` says. -/
theorem responseTimeout : Obligations.ResponseTimeout := by
  intro s u frame junk more p n levels hp hn hj hrx hr
  refine ⟨fun i hs ho => ?_, fun hv hst => ?_⟩
  · obtain ⟨op, v, ho, -⟩ := opens_of_opening hs ho
    obtain ⟨t, hrun, hb, ht⟩ := response_times_out (ho.cfg ▸ hs.2.1) ho.launched (ho.cfg ▸ hp) (ho.cfg ▸ hn) hj
      (ho.rx ▸ hrx) (ho.ready ▸ hr)
    have hallowed : p + n + 16 ≤ s.allowance :=
      exchange_allowed (le_samples_of_allows hp (by rw [hr]; simp)) (by rw [hn]; exact Nat.le_refl n)
    exact ⟨t, exec_of_opens hs ho hrun hb (by omega), ht⟩
  · obtain ⟨-, hlaunched, -, hcfg, hready, hurx, -⟩ := launched_of_starting hv hst
    obtain ⟨t, hrun, -, ht⟩ := response_times_out (hcfg ▸ hv) hlaunched (hcfg ▸ hp) (hcfg ▸ hn) hj (hurx ▸ hrx)
      (hready ▸ hr)
    obtain ⟨m, rfl⟩ := run_of_starting hv hst hrun
    exact ⟨m, ht⟩

/-- R139 a: a request that does not fit is never sent. -/
theorem request_oversize {s : State} (hs : s.Startable) (hn : s.cfg.nmax < s.frameLen) :
    ∃ t, exec .xchgRr s = .next t ∧
      t = { s with
        cmd := 0x01#8, done := true, res := s.cfg.rc.phyOtherError, errk := t.errk,
        tr := s.tr ++ [.busReset] ++ diagTail s.verbose 0x01#8 s.cfg.rc.phyOtherError } := by
  have ⟨⟨hb, hp, hd, hsel⟩, _⟩ := hs
  have ht : (s.beginOp 0x01#8).tick = (s.beginOp 0x01#8).exchangeError .phyOtherError := by
    have hstep : (s.beginOp 0x01#8).tick = (s.beginOp 0x01#8).requestStart := by
      simp only [State.tick, beginOp_ph, hp, State.idlePhaseStep]
      rfl
    rw [hstep]
    exact if_pos hn
  have hallowed : 0 + 0 + 16 ≤ s.allowance := exchange_allowed (Nat.zero_le _) (Nat.zero_le _)
  refine ⟨_, exec_within rfl hs ((Within.tick rfl ht).trans (exchangeError_ends .phyOtherError rfl)) (by omega) rfl, ?_⟩
  simp [State.endedWith, State.beginOp, ResultCodes.code, hb, hp, hd, hsel]

/-- Settles O29, by whose length byte it is: a request's, or as `response_oversize` says a response's. -/
theorem oversizeFrame : Obligations.OversizeFrame := by
  refine ⟨fun s hs hn => request_oversize hs hn, ?_⟩
  intro s u frame junk more p q l m b levels hp hq hj hl hrx hr
  refine ⟨fun i hs ho => ?_, fun hv hst => ?_⟩
  · obtain ⟨op, v, ho, -⟩ := opens_of_opening hs ho
    obtain ⟨t, hrun, hb, ht⟩ := response_oversize (ho.cfg ▸ hs.2.1) ho.launched (ho.cfg ▸ hp) (ho.cfg ▸ hq) hj
      (ho.cfg ▸ hl) (ho.rx ▸ hrx) (ho.ready ▸ hr)
    have hallowed := reply_allowed hp hq hr
    exact ⟨t, exec_of_opens hs ho hrun hb (by omega), ht⟩
  · obtain ⟨-, hlaunched, -, hcfg, hready, hurx, -⟩ := launched_of_starting hv hst
    obtain ⟨t, hrun, -, ht⟩ := response_oversize (hcfg ▸ hv) hlaunched (hcfg ▸ hp) (hcfg ▸ hq) hj (hcfg ▸ hl)
      (hurx ▸ hrx) (hready ▸ hr)
    obtain ⟨m, rfl⟩ := run_of_starting hv hst hrun
    exact ⟨m, ht⟩

/-- Settles O30: a first request and a running one both fail as `response_mispaired` says. -/
theorem wrongResponseId : Obligations.WrongResponseId := by
  intro s u frame r levels more hfit hid hr hrx
  refine ⟨fun i hi hs ho => ?_, fun hv hst hc hd => ?_⟩
  · obtain ⟨op, v, ho, -⟩ := opens_of_opening hs ho
    have hc : u.cmd ≠ 0x02#8 := by
      rw [ho.cmd]
      exact cmd_ne_of_decodeOp ho.opcode rfl hi
    obtain ⟨t, hrun, hb, ht⟩ := response_mispaired (ho.cfg ▸ hs.2.1) ho.launched (ho.cfg ▸ hfit) (ho.ready ▸ hr)
      (ho.rx ▸ hrx) (by rw [ho.ds]; nofun) hc hid
    have hallowed := reply_allowed hfit.1 hfit.2.1 hr
    exact ⟨t, exec_of_opens hs ho hrun hb (by omega), ht⟩
  · obtain ⟨-, hlaunched, hds, hcfg, hready, hurx, hcmd⟩ := launched_of_starting hv hst
    obtain ⟨t, hrun, -, ht⟩ := response_mispaired (hcfg ▸ hv) hlaunched (hcfg ▸ hfit) (hready ▸ hr) (hurx ▸ hrx)
      (by rw [hds, hd]; nofun) (hcmd ▸ hc) hid
    obtain ⟨m, rfl⟩ := run_of_starting hv hst hrun
    exact ⟨m, ht⟩

end Sys2Proof.Machine
end

section
/-! SUPPORT. Notification waits (R166, R167): one iteration, the iterations that miss, the two ends of a wait, and the
whole wait as the Module plays it. -/
namespace Sys2Proof.Machine

/-! ### What a wait leaves (R166) -/

/-- The block stands in a wait at `d`, between exchanges. -/
structure InWait (z : State) (d : DState) : Prop where
  busy : z.busy = true
  ph : z.ph = .idle
  sel : z.sel = false
  ds : z.ds = d
  valid : z.cfg.valid = true

/-- From `z` to `y` inside a wait: `n` iterations are over, the polls brought `rs`, and the block stands at `d`. -/
structure Waited (z y : State) (n : Nat) (rs : List Reply) (d : DState) (levels : List Bool) (more : List Byte) :
    Prop where
  state : y = { z with
    ds := d, iter := z.iter - n, expv := rs.isEmpty && z.expv, spin := y.spin, fb := y.fb, k := y.k, ready := levels,
    rx := more, tr := y.tr }
  k : rs = [] → y.k = z.k
  fbAt : ∀ a, y.fbAt a = rs.foldl ontoBuffer z.fbAt a
  delays : y.tr.count (.delay z.cfg.pollMs) = z.tr.count (.delay z.cfg.pollMs) + n
  resets : resetCount y.tr = resetCount z.tr

section
variable {z y x : State} {m n : Nat} {rs qs : List Reply} {d e : DState} {levels levels' : List Bool}
  {more more' : List Byte}

theorem Waited.refl (z : State) : Waited z z 0 [] z.ds z.ready z.rx := ⟨rfl, fun _ => rfl, fun _ => rfl, rfl, rfl⟩

theorem Waited.trans (h : Waited z y n rs d levels more) (g : Waited y x m qs e levels' more') :
    Waited z x (n + m) (rs ++ qs) e levels' more' := by
  have hcfg : y.cfg = z.cfg := by rw [h.state]
  refine ⟨?_, fun he => ?_, fun a => ?_, ?_, g.resets.trans h.resets⟩
  · have hexpv : ((rs ++ qs).isEmpty && z.expv) = (qs.isEmpty && (rs.isEmpty && z.expv)) := by
      cases rs <;> cases qs <;> simp
    rw [hexpv, ← Nat.sub_sub]
    exact g.state.trans (by rw [h.state])
  · obtain ⟨hrs, hqs⟩ := List.append_eq_nil_iff.mp he
    rw [g.k hqs, h.k hrs]
  · rw [g.fbAt, List.foldl_append, funext h.fbAt]
  · rw [← hcfg, g.delays, hcfg, h.delays, Nat.add_assoc]

theorem Waited.inWait (h : Waited z y n rs d levels more) (hz : InWait z e) : InWait y d := by
  rw [h.state]
  exact ⟨hz.busy, hz.ph, hz.sel, rfl, hz.valid⟩

end

theorem tick_inWait {z : State} {d : DState} (h : InWait z d) : z.tick = z.idlePhaseStep := by
  simp only [State.tick, h.ph]

/-! ### One iteration -/

/-- Ready reads 0, or 1 and the poll comes next. -/
theorem run_sample {z : State} {v : Bool} {levels : List Bool} (h : InWait z .dWaitSample) (hr : z.ready = v :: levels) :
    ∃ y, Within 1 z y ∧ Waited z y 0 [] (if v = true then .dWaitPoll else .dWaitDelay) levels z.rx := by
  have ht : z.tick = z.sampled.toDs (if v = true then .dWaitPoll else .dWaitDelay) := by
    rw [tick_inWait h, State.idlePhaseStep, h.ds, ← nextReady_cons hr]
    rfl
  rw [sampled_cons hr] at ht
  refine ⟨_, .tick h.busy ht, ?_⟩
  exact ⟨by simp [State.toDs], fun _ => rfl, fun _ => rfl, by simp [State.toDs], by simp [State.toDs, resetCount]⟩

/-- The events of an answered exchange are neither delays nor Bus resets (R146). -/
theorem trace_counts (r : Reply) (out stale : List Byte) (ms : Nat) :
    (r.trace out stale).count (.delay ms) = 0 ∧ resetCount (r.trace out stale) = 0 := by
  unfold Reply.trace exchangeTrace resetCount
  split <;> simp [List.count_replicate]

/-- A poll that is answered, up to the classification of its frame (R141, R166). -/
theorem run_poll {z : State} {r : Reply} {levels : List Bool} {more : List Byte} (h : InWait z .dWaitPoll)
    (hfit : r.Fits z.cfg 0) (hr : z.ready = r.levels ++ levels) (hrx : z.rx = r.bytes ++ more) :
    ∃ y, Within (r.p + r.q + 8) z y ∧ Waited z y 0 [r] .dWaitClassify levels more ∧
      y.fbAt 0 = BitVec.ofNat 8 r.pay.length ∧ y.frameCid = r.id := by
  have hcap : 3 ≤ z.cfg.cap := by have := le_cap_of_valid h.valid; omega
  have hl : Launched { z with expv := false } z.tick [0#8, 0#8, 0#8] :=
    launched_poll h.busy h.ph (.inr h.ds) (polling_of_dWaitPoll h.ds) hcap rfl
  have hstart : Shifts z z.tick := by
    rw [tick_inWait h, State.idlePhaseStep, h.ds]
    exact shifts_exchangeStep z
  have hds : z.tick.ds = .dWaitPoll := hstart.ds.trans h.ds
  obtain ⟨w, stale, -, hrun, hw⟩ := exchange_answered (u := { z with expv := false }) h.valid hl hfit hr hrx
  have hpoll : w.polling = true := polling_of_dWaitPoll (hw.ds.trans hds)
  have hlast : (w.toPh .idle).afterExchange = (w.toPh .idle).toDs .dWaitClassify := if_pos (hw.ds.trans hds)
  obtain ⟨hdelay, hreset⟩ := trace_counts r [0#8, 0#8, 0#8] stale z.cfg.pollMs
  have hdone : Within 1 w ((w.toPh .idle).toDs .dWaitClassify) := hlast ▸ hw.completes (.inl hpoll)
  refine ⟨_, (((Within.tick h.busy rfl).trans hrun).trans hdone).mono (by omega), ⟨?_, nofun, hw.fbAt, ?_, ?_⟩,
    hw.header⟩
  · rw [hw.state]
    simp [State.toPh, State.toDs, h.busy, h.ph, h.sel, hstart.done]
  · rw [hw.state]
    simp [State.toPh, State.toDs, hdelay]
  · rw [hw.state]
    simp [State.toPh, State.toDs, resetCount] at hreset ⊢
    exact hreset

/-- What one delay leaves (R167). -/
def State.delayed (z : State) : State := { z.emit (.delay z.cfg.pollMs) with iter := z.iter - 1 }

theorem delayStep_eq (z : State) :
    z.delayStep = if z.iter - 1 = 0 then z.delayed.failWith .timeout else z.delayed.toDs .dWaitSample := rfl

theorem delayed_waited (z : State) (d : DState) : Waited z (z.delayed.toDs d) 1 [] d z.ready z.rx :=
  ⟨rfl, fun _ => rfl, fun _ => rfl, by simp [State.delayed, State.emit], by simp [State.delayed, State.emit, resetCount]⟩

/-- A delay: the next iteration, or the end of the wait (R167 d). -/
theorem run_delay {z : State} (h : InWait z .dWaitDelay) :
    Within 1 z (if z.iter - 1 = 0 then z.delayed.failWith .timeout else z.delayed.toDs .dWaitSample) := by
  refine .tick h.busy ?_
  rw [tick_inWait h, State.idlePhaseStep, h.ds, ← delayStep_eq]

/-! ### The classification of a polled frame (R166, R168) -/

/-- The frame in `FB` classified by its own header. -/
def State.classified (z : State) : State :=
  z.classifyAs (variantOfId z.cfg.cid z.frameCid) (z.fbAt 0) z.frameCid

theorem classified_cid (z : State) : z.classified.k.cid = z.frameCid := by
  obtain ⟨-, -, hcid, -⟩ := extract_common z
    (z.selectVariant (variantOfId z.cfg.cid z.frameCid) (z.fbAt 0) z.frameCid)
    (z.classCommon (z.selectVariant (variantOfId z.cfg.cid z.frameCid) (z.fbAt 0) z.frameCid) (z.fbAt 0) z.frameCid)
  exact hcid

/-- The classification is the last thing a poll writes. -/
theorem Waited.classified {z y : State} {n : Nat} {rs : List Reply} {d : DState} {levels : List Bool}
    {more : List Byte} (h : Waited z y n rs d levels more) (hrs : rs ≠ []) (e : DState) :
    Waited z (y.classified.toDs e) n rs e levels more := by
  refine ⟨?_, fun h' => absurd h' hrs, h.fbAt, ?_, ?_⟩
  · rw [h.state]
    rfl
  · rw [← h.delays]
    simp [State.classified, State.classifyAs, State.toDs]
  · rw [← h.resets]
    simp [State.classified, State.classifyAs, State.toDs, resetCount]

theorem tick_classify {z : State} (h : InWait z .dWaitClassify) :
    z.tick = if z.fbAt 0 ≠ 0#8 ∧ z.frameCid = z.wid then z.classified.matched z.frameLen
      else z.classified.toDs .dWaitDelay := by
  rw [tick_inWait h, State.idlePhaseStep, h.ds]
  exact if_pos h.ds

/-- An iteration that misses, up to its delay. -/
theorem run_pass {z : State} {x : Pass} {levels : List Bool} {more : List Byte} {c : Nat} (h : InWait z .dWaitSample)
    (hm : Pass.misses z.cfg z.wid x = true) (hr : z.ready = passLevels x ++ levels) (hrx : z.rx = passBytes x ++ more)
    (hc : 2 ≤ c) (hcost : ∀ r ∈ x, r.p + r.q + 11 ≤ c) :
    ∃ y, Within (c - 1) z y ∧ Waited z y 0 x.toList .dWaitDelay levels more := by
  cases x with
  | none =>
    obtain ⟨y, hrun, hy⟩ := run_sample h hr
    rw [hrx] at hy
    exact ⟨y, hrun.mono (by omega), hy⟩
  | some r =>
    simp only [Pass.misses, Bool.and_eq_true, decide_eq_true_eq] at hm
    obtain ⟨hfit, hmiss⟩ := hm
    have hcr := hcost r rfl
    obtain ⟨y, hrun, hy⟩ := run_sample h hr
    obtain ⟨v, hrun', hv, hlen, hid⟩ := run_poll (hy.inWait h) (by rw [hy.state]; exact hfit) (by rw [hy.state]; rfl)
      (by rw [hy.state]; exact hrx)
    have hzv := hy.trans hv
    have hwid : v.wid = z.wid := by rw [hzv.state]
    have ht := tick_classify (hzv.inWait h)
    rw [if_neg] at ht
    · exact ⟨_, ((hrun.trans hrun').trans (.tick (hzv.inWait h).busy ht)).mono (by omega), hzv.classified nofun _⟩
    · rintro ⟨hlen', hid'⟩
      obtain hmiss | hmiss := hmiss
      · exact hlen' (by rw [hlen, hmiss]; rfl)
      · exact hmiss (by rw [← hid, hid', hwid])

/-! ### The iterations of a wait (R166, R167) -/

/-- The iterations that miss, while there are more to come. -/
theorem run_misses {c : Nat} {levels : List Bool} {more : List Byte} (hc : 2 ≤ c) {misses : List Pass} {z : State}
    (h : InWait z .dWaitSample) (hlen : misses.length < z.iter)
    (hm : ∀ x ∈ misses, Pass.misses z.cfg z.wid x = true) (hcost : ∀ x ∈ misses, ∀ r ∈ x, r.p + r.q + 11 ≤ c)
    (hr : z.ready = misses.flatMap passLevels ++ levels) (hrx : z.rx = misses.flatMap passBytes ++ more) :
    ∃ y, Within (misses.length * c) z y ∧
      Waited z y misses.length (misses.filterMap id) .dWaitSample levels more := by
  induction misses generalizing z with
  | nil =>
    have hz := Waited.refl z
    rw [h.ds, hr, hrx] at hz
    exact ⟨z, (Within.refl z).mono (by omega), hz⟩
  | cons x xs ih =>
    rw [List.length_cons] at hlen
    obtain ⟨y, hrun, hy⟩ := run_pass h (hm x List.mem_cons_self)
      (by rw [hr, List.flatMap_cons, List.append_assoc]) (by rw [hrx, List.flatMap_cons, List.append_assoc]) hc
      (hcost x List.mem_cons_self)
    have hiter : y.iter = z.iter := by rw [hy.state]; rfl
    have hdelay := run_delay (hy.inWait h)
    rw [if_neg (by omega)] at hdelay
    have hnext := hy.trans (delayed_waited y .dWaitSample)
    have hready : y.ready = xs.flatMap passLevels ++ levels := by rw [hy.state]
    have hyrx : y.rx = xs.flatMap passBytes ++ more := by rw [hy.state]
    rw [hready, hyrx, List.append_nil, Nat.zero_add] at hnext
    have hcfg : (y.delayed.toDs .dWaitSample).cfg = z.cfg := by rw [hnext.state]
    have hwid : (y.delayed.toDs .dWaitSample).wid = z.wid := by rw [hnext.state]
    have hiter' : (y.delayed.toDs .dWaitSample).iter = z.iter - 1 := by rw [hnext.state]
    obtain ⟨t, hrun', ht⟩ := ih (hnext.inWait h) (by omega)
      (by rw [hcfg, hwid]; exact fun x hx => hm x (List.mem_cons_of_mem _ hx))
      (fun x hx => hcost x (List.mem_cons_of_mem _ hx)) hready hyrx
    refine ⟨t, ((hrun.trans hdelay).trans hrun').mono ?_, ?_⟩
    · rw [List.length_cons, Nat.succ_mul]
      omega
    · have hrs : (x :: xs).filterMap id = x.toList ++ xs.filterMap id := by cases x <;> rfl
      rw [hrs, List.length_cons, Nat.add_comm]
      exact hnext.trans ht

/-- The iterations of a wait that brings nothing: it ends with `TIMEOUT` behind the last delay (R167 d). -/
theorem run_misses_all {c : Nat} {levels : List Bool} {more : List Byte} (hc : 2 ≤ c) {misses : List Pass} {z : State}
    (h : InWait z .dWaitSample) (hlen : misses.length = z.iter) (hpos : 0 < z.iter)
    (hm : ∀ x ∈ misses, Pass.misses z.cfg z.wid x = true) (hcost : ∀ x ∈ misses, ∀ r ∈ x, r.p + r.q + 11 ≤ c)
    (hr : z.ready = misses.flatMap passLevels ++ levels) (hrx : z.rx = misses.flatMap passBytes ++ more) :
    ∃ y, Within (misses.length * c) z (y.failWith .timeout) ∧
      Waited z y misses.length (misses.filterMap id) .dWaitDelay levels more := by
  obtain rfl | ⟨xs, x, rfl⟩ := List.eq_nil_or_concat' misses
  · simp at hlen
    omega
  rw [List.length_append, List.length_singleton] at hlen
  have hx : x ∈ xs ++ [x] := List.mem_append_right _ List.mem_cons_self
  obtain ⟨y, hrun, hy⟩ := run_misses (levels := passLevels x ++ levels) (more := passBytes x ++ more) hc h (by omega)
    (fun x hx => hm x (List.mem_append_left _ hx)) (fun x hx => hcost x (List.mem_append_left _ hx))
    (by simpa using hr) (by simpa using hrx)
  obtain ⟨v, hrun', hv⟩ := run_pass (hy.inWait h) (by rw [hy.state]; exact hm x hx) (by rw [hy.state])
    (by rw [hy.state]) hc (hcost x hx)
  have hzv := hy.trans hv
  have hiter : v.iter = 1 := by rw [hzv.state]; show z.iter - xs.length = 1; omega
  have hdelay := run_delay (hzv.inWait h)
  rw [if_pos (by omega)] at hdelay
  have hready : v.ready = levels := by rw [hzv.state]
  have hvrx : v.rx = more := by rw [hzv.state]
  have hlast := hzv.trans (delayed_waited v .dWaitDelay)
  rw [hready, hvrx, List.append_nil] at hlast
  refine ⟨v.delayed.toDs .dWaitDelay, ((hrun.trans hrun').trans hdelay).mono ?_, ?_⟩
  · rw [List.length_append, List.length_singleton, Nat.succ_mul]
    omega
  · have hrs : (xs ++ [x]).filterMap id = xs.filterMap id ++ x.toList := by
      rw [List.filterMap_append]
      cases x <;> rfl
    rw [hrs, List.length_append, List.length_singleton]
    exact hlast

/-- The iteration that brings the awaited frame (R166). -/
theorem run_found {z : State} {r : Reply} {levels : List Bool} {more : List Byte} (h : InWait z .dWaitSample)
    (hfit : r.Fits z.cfg 0) (hid : r.id = z.wid) (hpay : r.pay ≠ [])
    (hr : z.ready = true :: (r.levels ++ levels))
    (hrx : z.rx = r.bytes ++ more) :
    ∃ y, Within (r.p + r.q + 10) z (y.matched r.pay.length) ∧ Waited z y 0 [r] .dWaitClassify levels more ∧
      y.k.cid = r.id := by
  obtain ⟨y, hrun, hy⟩ := run_sample h hr
  obtain ⟨v, hrun', hv, hlen, hvid⟩ := run_poll (hy.inWait h) (by rw [hy.state]; exact hfit) (by rw [hy.state])
    (by rw [hy.state]; exact hrx)
  have hzv := hy.trans hv
  have hin := hzv.inWait h
  have hwid : v.wid = z.wid := by rw [hzv.state]
  have hshort : r.pay.length < 256 := by
    have := nmax_lt_of_valid h.valid
    have := hfit.2.2.2
    omega
  have hflen : v.frameLen = r.pay.length := by
    rw [State.frameLen, hlen, BitVec.toNat_ofNat]
    omega
  have hlen' : v.fbAt 0 ≠ 0#8 := by
    rw [hlen]
    exact ofNat_ne_zero (List.length_pos_iff.mpr hpay) hshort
  have ht := tick_classify hin
  rw [if_pos ⟨hlen', by rw [hvid, hid, hwid]⟩, hflen] at ht
  have hds : v.classified.toDs .dWaitClassify = v.classified := by
    have : v.classified.ds = .dWaitClassify := hin.ds
    rw [← this]
    rfl
  exact ⟨v.classified, ((hrun.trans hrun').trans (.tick hin.busy ht)).mono (by omega),
    hds ▸ hzv.classified nofun .dWaitClassify, (classified_cid v).trans hvid⟩

/-- A whole wait as the Module plays it: the state `y` in which it is decided, and what then ends it. -/
theorem run_wait {s : State} {w : WaitScript} {nid : Word16} {tmo : Byte} {levels : List Bool} {more : List Byte}
    {c : Nat} (hb : s.busy = true) (hp : s.ph = .idle) (hsel : s.sel = false) (hv : s.cfg.valid = true)
    (hw : w.Plays s.cfg nid (s.iterations tmo)) (hr : s.ready = w.levels ++ levels) (hrx : s.rx = w.bytes ++ more)
    (hc : 2 ≤ c) (hcost : ∀ x ∈ w.misses, ∀ r ∈ x, r.p + r.q + 11 ≤ c) (hcost' : ∀ r ∈ w.found, r.p + r.q + 11 ≤ c) :
    ∃ y d, Waited { s with wid := nid, iter := s.iterations tmo } y w.misses.length
        (w.misses.filterMap id ++ w.found.toList) d levels more ∧
      Within (s.iterations tmo * c) (s.startWait nid tmo)
        (w.found.elim (y.failWith .timeout) fun r => y.matched r.pay.length) ∧
      (w.found.isSome = true → y.k.cid = nid) := by
  obtain ⟨misses, found⟩ := w
  obtain ⟨hm, hnone, hsome⟩ := hw
  simp only [WaitScript.levels, WaitScript.bytes] at hr hrx
  by_cases hn : s.iterations tmo = 0
  · obtain rfl : found = none := by
      cases found with
      | none => rfl
      | some r => have := (hsome r rfl).1; omega
    obtain rfl : misses = [] := List.length_eq_zero_iff.mp ((hnone rfl).trans hn)
    have hstart : s.startWait nid tmo = { s with wid := nid, iter := s.iterations tmo }.failWith .timeout := by
      rw [State.startWait, if_pos hn, hn]
    obtain rfl : s.ready = levels := hr
    obtain rfl : s.rx = more := hrx
    refine ⟨{ s with wid := nid, iter := s.iterations tmo }, s.ds, .refl _, ?_, nofun⟩
    rw [hstart]
    exact (Within.refl _).mono (by omega)
  · obtain ⟨z, hz⟩ : ∃ z : State, z = { s with wid := nid, iter := s.iterations tmo, ds := .dWaitSample } := ⟨_, rfl⟩
    have hstart : s.startWait nid tmo = z := by rw [State.startWait, if_neg hn, hz]
    have hin : InWait z .dWaitSample := by rw [hz]; exact ⟨hb, hp, hsel, rfl, hv⟩
    have hzs : Waited { s with wid := nid, iter := s.iterations tmo } z 0 [] .dWaitSample s.ready s.rx :=
      ⟨by rw [hz]; simp, fun _ => by rw [hz], fun _ => by rw [hz]; rfl, by rw [hz]; rfl, by rw [hz]⟩
    have hziter : z.iter = s.iterations tmo := by rw [hz]
    have hzm : ∀ x ∈ misses, Pass.misses z.cfg z.wid x = true := by rw [hz]; exact hm
    have hzr : z.ready = s.ready := by rw [hz]
    have hzrx : z.rx = s.rx := by rw [hz]
    rw [hstart]
    cases found with
    | none =>
      obtain ⟨y, hrun, hy⟩ := run_misses_all (levels := levels) (more := more) hc hin (by rw [hziter]; exact hnone rfl)
        (by omega) hzm hcost (by rw [hzr, hr]; simp) (by rw [hzrx, hrx]; simp)
      have hlen : misses.length = s.iterations tmo := hnone rfl
      exact ⟨y, _, by simpa using hzs.trans hy, hrun.mono (by rw [hlen]), nofun⟩
    | some r =>
      obtain ⟨hlen, hfit, hid, hpay⟩ := hsome r rfl
      obtain ⟨y, hrun, hy⟩ := run_misses (levels := true :: (r.levels ++ levels)) (more := r.bytes ++ more) hc hin
        (by rw [hziter]; exact hlen) hzm hcost (by rw [hzr, hr]; simp) (by rw [hzrx, hrx]; simp)
      have hywid : y.wid = nid := by rw [(hzs.trans hy).state]
      have hycfg : y.cfg = s.cfg := by rw [(hzs.trans hy).state]
      obtain ⟨v, hrun', hv, hk⟩ := run_found (hy.inWait hin) (by rw [hycfg]; exact hfit) (by rw [hywid]; exact hid) hpay
        (by rw [hy.state]) (by rw [hy.state])
      refine ⟨v, _, by simpa using (hzs.trans hy).trans hv, (hrun.trans hrun').mono ?_, fun _ => hk.trans hid⟩
      have hcr := hcost' r rfl
      calc misses.length * c + (r.p + r.q + 10) ≤ (misses.length + 1) * c := by rw [Nat.succ_mul]; omega
        _ ≤ s.iterations tmo * c := Nat.mul_le_mul_right c hlen

end Sys2Proof.Machine
end

section
/-! SUPPORT. The statements about waits: a poll of `WAITN` that finds no Module (R137, R166), and `SREQ` with its status
and its wait (R162, R163). -/
namespace Sys2Proof.Machine

/-! ### What a wait may cost (R166, R167) -/

/-- One iteration of a wait at the bounds of its exchange, in steps of the block (entry 5). -/
def State.passCost (s : State) : Nat :=
  Bound.samples s.cfg.tCs s.ready.length + Bound.samples s.cfg.tSrsp s.ready.length + 16

theorem Reply.levels_length (r : Reply) : r.levels.length = r.p + r.q + 2 := readyLevels_length r.p r.q

theorem reply_cost {s : State} {r : Reply} {sent : Nat} (hfit : r.Fits s.cfg sent)
    (hl : r.levels.length ≤ s.ready.length) : r.p + r.q + 16 ≤ s.passCost := by
  rw [r.levels_length] at hl
  have hp := le_samples_of_allows hfit.1 (l := s.ready.length) (by omega)
  have hq := le_samples_of_allows hfit.2.1 (l := s.ready.length) (by omega)
  simp only [State.passCost]
  omega

theorem misses_cost {s : State} {misses : List Pass} {nid : Word16} {pre post : List Bool}
    (hm : ∀ x ∈ misses, Pass.misses s.cfg nid x = true) (hr : s.ready = pre ++ misses.flatMap passLevels ++ post) :
    ∀ x ∈ misses, ∀ r ∈ x, r.p + r.q + 11 ≤ s.passCost := by
  rintro x hx r rfl
  have hmiss := hm _ hx
  simp only [Pass.misses, Bool.and_eq_true, decide_eq_true_eq] at hmiss
  obtain ⟨xs, ys, rfl⟩ := List.append_of_mem hx
  have hcost := reply_cost hmiss.1 (by rw [hr]; simp [passLevels]; omega)
  omega

theorem iterations_le {s : State} (hv : s.cfg.valid = true) (tmo : Byte) : s.iterations tmo ≤ tmo.toNat * 1000 := by
  have hms : 1 ≤ s.cfg.pollMs := of_decide_eq_true (check_of_valid hv (by simp [Cfg.checks]))
  have hle := Nat.mul_le_mul_right (tmo.toNat * 1000) hms
  refine Nat.lt_add_one_iff.mp (Nat.div_lt_of_lt_mul ?_)
  rw [Nat.mul_add_one s.cfg.pollMs (tmo.toNat * 1000)]
  omega

/-- All the iterations of a wait, an exchange before and one after are allowed. -/
theorem wait_allowed {s : State} {m n : Nat} (hv : s.cfg.valid = true) (hm : m ≤ s.iterations s.a.tmo)
    (hn : n ≤ 2 * s.passCost) : m * s.passCost + n ≤ s.allowance := by
  have hi := iterations_le hv s.a.tmo
  have hle := Nat.mul_le_mul_right s.passCost (show m + 2 ≤ s.a.tmo.toNat * 1000 + 8 by omega)
  have hall := allowance_ge s
  rw [Nat.add_mul] at hle
  rw [← State.passCost] at hall
  omega

/-! ### A poll of `WAITN` that finds no Module (R137, R166) -/

/-- The wait of `WAITN` up to the poll of the iteration behind those that miss. -/
theorem waitn_polls {s : State} {misses : List Pass} {levels : List Bool} {more : List Byte} (hs : s.Startable)
    (hlen : misses.length < s.iterations s.a.tmo) (hm : ∀ x ∈ misses, Pass.misses s.cfg s.a.nid x = true)
    (hr : s.ready = misses.flatMap passLevels ++ true :: levels) (hrx : s.rx = misses.flatMap passBytes ++ more) :
    ∃ z y, z = { s.beginOp 0x05#8 with wid := s.a.nid, iter := s.iterations s.a.tmo, ds := .dWaitSample } ∧
      InWait y .dWaitPoll ∧ Within (misses.length * s.passCost + 2) (s.beginOp 0x05#8) y ∧
      Waited z y misses.length (misses.filterMap id) .dWaitPoll levels more := by
  have ⟨⟨_, hp, _, hsel⟩, hv, _⟩ := hs
  obtain ⟨z, hz⟩ : ∃ z, z = { s.beginOp 0x05#8 with
    wid := s.a.nid, iter := s.iterations s.a.tmo, ds := .dWaitSample } := ⟨_, rfl⟩
  have hstart : (s.beginOp 0x05#8).tick = z := by
    rw [tick_validate (b := s.beginOp 0x05#8) hp rfl, validateStep_waitn rfl, State.startWait,
      if_neg (by show ¬ s.iterations s.a.tmo = 0; omega), hz]
    rfl
  have hin : InWait z .dWaitSample := by rw [hz]; exact ⟨rfl, hp, hsel, rfl, hv⟩
  obtain ⟨y, hrun, hy⟩ := run_misses (c := s.passCost) (by rw [State.passCost]; omega) hin (by rw [hz]; exact hlen)
    (by rw [hz]; exact hm) (misses_cost (pre := []) hm hr) (by rw [hz]; exact hr) (by rw [hz]; exact hrx)
  obtain ⟨x, hrun', hx⟩ := run_sample (hy.inWait hin) (by rw [hy.state])
  have hzx := hy.trans hx
  rw [List.append_nil, hy.state] at hzx
  exact ⟨z, x, hz, hzx.inWait hin, (((Within.tick rfl hstart).trans hrun).trans hrun').mono (by omega), hzx⟩

/-- The events of an exchange that ends before anything is sent (R137). -/
theorem select_timeout_counts (tr : List Event) (n ms : Nat) (verbose : Bool) (op v : Byte) :
    let t := tr ++ ([Event.setSel true] ++ List.replicate n (Event.rdRdy false) ++ [.busReset]) ++ diagTail verbose op v
    t.count (.delay ms) = tr.count (.delay ms) ∧ resetCount t = resetCount tr + 1 ∧ lastBus t = some .busReset := by
  unfold diagTail
  split <;> simp [resetCount, lastBus, List.count_replicate, List.filter_append, Event.isBus]

theorem waitn_select_times_out {s : State} {misses : List Pass} {n : Nat} {levels : List Bool} {more : List Byte}
    (hs : s.Startable) (hlen : misses.length < s.iterations s.a.tmo)
    (hm : ∀ x ∈ misses, Pass.misses s.cfg s.a.nid x = true) (hn : s.cfg.tCs = .fin n)
    (hr : s.ready = misses.flatMap passLevels ++ true :: (List.replicate n false ++ levels))
    (hrx : s.rx = misses.flatMap passBytes ++ more) :
    ∃ t, exec .waitn s = .next t ∧
      t = { s with
        cmd := 0x05#8, done := true, res := s.cfg.rc.chipSelectTimeout, expv := false, wid := s.a.nid,
        iter := s.iterations s.a.tmo - misses.length, spin := 0, errk := t.errk, fb := t.fb,
        k := t.k, ready := levels, rx := more, tr := t.tr } ∧
      t.tr.count (.delay s.cfg.pollMs) = s.tr.count (.delay s.cfg.pollMs) + misses.length ∧
      resetCount t.tr = resetCount s.tr + 1 ∧ lastBus t.tr = some .busReset := by
  have ⟨⟨hb, hp, hd, hsel⟩, hv, _⟩ := hs
  obtain ⟨z, y, hz, hin, hrun, hy⟩ := waitn_polls hs hlen hm hr hrx
  have hcfg : y.cfg = s.cfg := by rw [hy.state, hz]; rfl
  have hcap : 3 ≤ y.cfg.cap := by have := le_cap_of_valid hin.valid; omega
  have hl : Launched { y with expv := false } y.tick [0#8, 0#8, 0#8] :=
    launched_poll hin.busy hin.ph (.inr hin.ds) (polling_of_dWaitPoll hin.ds) hcap rfl
  obtain ⟨t, hend, htb, ⟨ht, -⟩, -⟩ := select_times_out (u := { y with expv := false }) (levels := levels) hin.valid hl
    (by rw [← hn, ← hcfg]) (by rw [hy.state])
  have hcost : n + 16 ≤ s.passCost := by rw [State.passCost, hn]; simp only [Bound.samples]; omega
  have hallowed : misses.length * s.passCost + (n + 5) ≤ s.allowance := wait_allowed hv hlen.le (by omega)
  obtain ⟨hdelay, hreset, hlast⟩ := select_timeout_counts y.tr n s.cfg.pollMs y.verbose y.cmd y.cfg.rc.chipSelectTimeout
  have htr : t.tr = y.tr ++ ([Event.setSel true] ++ List.replicate n (Event.rdRdy false) ++ [.busReset]) ++
      diagTail y.verbose y.cmd y.cfg.rc.chipSelectTimeout := by rw [ht]; rfl
  refine ⟨t, exec_within rfl hs ((hrun.trans (.tick hin.busy rfl)).trans hend) (by omega) htb, ?_, ?_, ?_, htr ▸ hlast⟩
  · rw [ht, hy.state, hz]
    simp [State.endedWith, State.beginOp, hb, hp, hd, hsel]
  · rw [htr, hdelay]
    have := hy.delays
    rw [hz] at this
    exact this
  · rw [htr, hreset, hy.resets, hz]
    rfl

/-- Settles O27: a first exchange, a running one and a poll of `WAITN` all fail as `select_times_out` says. -/
theorem chipSelectTimeout : Obligations.ChipSelectTimeout := by
  refine ⟨fun s u i frame n levels hs ho hn hr => ?_, fun s u frame n levels hv hst hn hr => ?_,
    fun s misses n levels more hs hlen hm hn hr hrx => ?_⟩
  · obtain ⟨op, v, ho, hfb⟩ := opens_of_opening hs ho
    obtain ⟨t, hrun, hb, ht, htfb⟩ := select_times_out (ho.cfg ▸ hs.2.1) ho.launched (ho.cfg ▸ hn) (ho.ready ▸ hr)
    have hallowed : n + 0 + 16 ≤ s.allowance := exchange_allowed (by rw [hn]; exact Nat.le_refl n) (Nat.zero_le _)
    exact ⟨t, exec_of_opens hs ho hrun hb (by omega), ht, fun hi => htfb.trans (hfb hi)⟩
  · obtain ⟨-, hlaunched, -, hcfg, hready, -, -⟩ := launched_of_starting hv hst
    obtain ⟨t, hrun, -, ht, -⟩ := select_times_out (hcfg ▸ hv) hlaunched (hcfg ▸ hn) (hready ▸ hr)
    obtain ⟨m, rfl⟩ := run_of_starting hv hst hrun
    exact ⟨m, ht⟩
  · exact waitn_select_times_out hs hlen hm hn (by rw [hr]; simp) hrx

end Sys2Proof.Machine
end

section
/-! SUPPORT. `SREQ` answered (R162, R163): its status, and its wait. -/
namespace Sys2Proof.Machine

/-! ### The status of `SREQ` (R163) -/

section
variable {x : State} (hc : x.cmd = 0x10#8)
include hc

theorem running_sreq : x.running = some .sreq := by
  rw [State.running, hc]
  rfl

theorem afterExchange_sreq (hd : x.ds = .dExchange) :
    x.afterExchange = if x.sval = true then x.toDs .dStatus else x.sreqWait := by
  simp only [State.afterExchange, hd, running_sreq hc]
  rfl

theorem afterStatus_sreq (len : Nat) : x.afterStatus len = x.sreqWait := by
  simp only [State.afterStatus, running_sreq hc]

/-- A match in the wait of `SREQ` reads no status (R162). -/
theorem matched_sreq (len : Nat) : x.matched len = x.endOp 0#8 := by
  simp only [State.matched, running_sreq hc]

end

/-- The response of `SREQ` is complete in `x`; its status byte, if it has to have one, decides what comes next. -/
theorem sreq_decides {x : State} {r : Reply} {f : Nat → Byte} {v : Byte} {events : List Event} (hb : x.busy = true)
    (hp : x.ph = .idle) (hsel : x.sel = false) (hd : x.ds = .dExchange) (hc : x.cmd = 0x10#8) (hv : x.cfg.valid = true)
    (hpay : r.pay.length ≤ x.cfg.nmax) (hfb : ∀ a, x.fbAt a = ontoBuffer f r a)
    (hve : (v, events) = if x.sval = true then statusResult x.cfg r.pay x.a.soff.toNat else (0x00#8, [])) :
    ∃ y : State, Within 1 x.afterExchange (if v = 0#8 then y.sreqWait else y.endOp v) ∧
      y = { x with ds := y.ds, tr := x.tr ++ events } := by
  rw [afterExchange_sreq hc hd]
  by_cases hsv : x.sval = true
  · rw [if_pos hsv] at hve ⊢
    have hflen : x.frameLen = r.pay.length := by
      rw [State.frameLen, hfb]
      exact Nat.mod_eq_of_lt (by have := nmax_lt_of_valid hv; omega)
    have ht : (x.toDs .dStatus).tick = (x.toDs .dStatus).respond r.pay.length := by
      rw [← hflen]
      simp only [State.tick, toDs_ph, hp, State.idlePhaseStep]
      rfl
    have hoff : (x.toDs .dStatus).statusOffset = x.a.soff.toNat := statusOffset_sreq hc
    have hfield : (x.toDs .dStatus).field8 x.a.soff.toNat = ontoBuffer f r (hdr + x.a.soff.toNat) := hfb _
    cases hs : r.pay[x.a.soff.toNat]? with
    | none =>
      rw [statusResult, hs] at hve
      obtain ⟨rfl, rfl⟩ := Prod.mk.inj hve
      have hne : x.cfg.rc.incorrectSrsp ≠ 0#8 := code_ne_zero (k := .incorrectSrsp) hv nofun
      rw [respond_short (by rw [hoff]; exact List.getElem?_eq_none_iff.mp hs)] at ht
      refine ⟨(x.toDs .dStatus).busReset, ?_, by rw [hsel]; rfl⟩
      rw [if_neg hne]
      exact .tick hb ht
    | some b =>
      rw [statusResult, hs] at hve
      obtain ⟨rfl, rfl⟩ := Prod.mk.inj hve
      obtain ⟨hlt, rfl⟩ := List.getElem?_eq_some_iff.mp hs
      have hbyte : ontoBuffer f r (hdr + x.a.soff.toNat) = r.pay[x.a.soff.toNat] := by
        rw [ontoBuffer, Reply.frame, List.getElem?_append_right (by simp [hdr])]
        simp [hdr, hlt]
      rw [respond_status (by rw [hoff]; exact hlt), hoff, hfield, hbyte, afterStatus_sreq (x := x.toDs .dStatus) hc] at ht
      exact ⟨x.toDs .dStatus, .tick hb ht, by rw [List.append_nil]; rfl⟩
  · rw [if_neg hsv] at hve ⊢
    obtain ⟨rfl, rfl⟩ := Prod.mk.inj hve
    exact ⟨x, .mono (.refl _) (by omega), by rw [List.append_nil]⟩

/-- `SREQ` answered with the paired id, up to its status. -/
theorem sreq_answered {s : State} {r : Reply} {levels : List Bool} {more : List Byte} {v : Byte} {events : List Event}
    (hs : s.Startable) (hn : s.a.len.toNat ≤ s.cfg.nmax) (hfit : r.Fits s.cfg s.a.len.toNat) (hid : r.id = resp s.a.cid)
    (hr : s.ready = r.levels ++ levels) (hrx : s.rx = r.bytes ++ more)
    (hve : (v, events) = if s.sval = true then statusResult s.cfg r.pay s.a.soff.toNat else (0x00#8, [])) :
    ∃ (y : State) (stale : List Byte),
      Within (r.p + r.q + 11) (s.beginOp 0x10#8) (if v = 0#8 then y.sreqWait else y.endOp v) ∧
      stale.length = r.pay.length ∧
      y = { s with
        cmd := 0x10#8, busy := true, done := y.done, ds := y.ds, exp := resp s.a.cid, expv := true, spin := y.spin,
        fb := y.fb, ready := levels, rx := more,
        tr := s.tr ++ r.trace ([s.a.len, msb s.a.cid, lsb s.a.cid] ++ s.fbBytes 3 s.a.len.toNat) stale ++ events } ∧
      ∀ a, y.fbAt a = ontoBuffer s.fbAt r a := by
  have ⟨⟨_, hp, _, hsel⟩, hv, _⟩ := hs
  have ⟨_, _, _, hpay⟩ := hfit
  obtain ⟨x, ho⟩ := opens_sreq hs (if_pos hn)
  obtain ⟨w, stale, hstale, hrun, hw⟩ := exchange_answered (ho.cfg ▸ hv) ho.launched (by simpa using hfit)
    (ho.ready ▸ hr) (ho.rx ▸ hrx)
  have hdone := hw.completes (.inr hid)
  obtain ⟨z, hz⟩ : ∃ z, z = w.toPh .idle := ⟨_, rfl⟩
  rw [← hz] at hdone
  have hstate : z = { s with
      cmd := 0x10#8, busy := true, done := z.done, ds := .dExchange, exp := resp s.a.cid, expv := true, spin := z.spin,
      fb := z.fb, ready := levels, rx := more,
      tr := s.tr ++ r.trace ([s.a.len, msb s.a.cid, lsb s.a.cid] ++ s.fbBytes 3 s.a.len.toNat) stale } := by
    rw [hz, hw.state]
    simp [State.toPh, ho.ds, hp, hsel]
  have hfb : ∀ a, z.fbAt a = ontoBuffer s.fbAt r a := fun a =>
    (fbAt_congr (by rw [hz]; rfl) a).trans ((hw.fbAt a).trans (by simp only [ontoBuffer, State.fbAt]))
  obtain ⟨y, hend, hy⟩ := sreq_decides (x := z) (v := v) (events := events) (by rw [hstate]) (by rw [hstate]; exact hp)
    (by rw [hstate]; exact hsel) (by rw [hstate]) (by rw [hstate]) (by rw [hstate]; exact hv)
    (by rw [hstate]; exact hpay) hfb (by rw [hstate]; exact hve)
  refine ⟨y, stale, (((ho.run.trans hrun).trans hdone).trans hend).mono (by omega), hstale, ?_, fun a => ?_⟩
  · rw [hy, hstate]
  · exact (fbAt_congr (by rw [hy]) a).trans (hfb a)

/-! ### `SREQ` with and without its wait (R162) -/

theorem sreq_ends {s : State} {r : Reply} {levels : List Bool} {more : List Byte} {v : Byte} {events : List Event}
    (hs : s.Startable) (hn : s.a.len.toNat ≤ s.cfg.nmax) (hfit : r.Fits s.cfg s.a.len.toNat) (hid : r.id = resp s.a.cid)
    (hr : s.ready = r.levels ++ levels) (hrx : s.rx = r.bytes ++ more)
    (hve : (v, events) = if s.sval = true then statusResult s.cfg r.pay s.a.soff.toNat else (0x00#8, []))
    (hend : s.waitFlag = false ∨ v ≠ 0x00#8) :
    ∃ t stale, exec .sreq s = .next t ∧ stale.length = r.pay.length ∧
      t = { s with
        cmd := 0x10#8, done := true, res := v, exp := resp s.a.cid, expv := true, spin := t.spin, fb := t.fb,
        ready := levels, rx := more,
        tr := s.tr ++ r.trace ([s.a.len, msb s.a.cid, lsb s.a.cid] ++ s.fbBytes 3 s.a.len.toNat) stale ++ events ++
          diagTail s.verbose 0x10#8 v } ∧
      ∀ a, t.fbAt a = ontoBuffer s.fbAt r a := by
  have ⟨⟨hb, _, hd, _⟩, _⟩ := hs
  obtain ⟨y, stale, hrun, hstale, hy, hfb⟩ := sreq_answered hs hn hfit hid hr hrx hve
  have hlast : (if v = 0#8 then y.sreqWait else y.endOp v) = y.endOp v := by
    split
    · next h0 =>
      have hw : ¬ y.waitFlag = true := by
        rw [hy]
        exact Bool.eq_false_iff.mp (hend.resolve_right (not_not_intro h0))
      rw [State.sreqWait, if_neg hw, h0]
    · rfl
  rw [hlast] at hrun
  have hallowed := reply_allowed hfit.1 hfit.2.1 hr
  refine ⟨y.endOp v, stale, exec_within rfl hs hrun (by omega) rfl, hstale, ?_, hfb⟩
  rw [hy]
  simp [State.endOp, diagEvents_eq, hb, hd]

/-- The end of an operation adds neither a delay nor a Bus reset. -/
theorem endOp_counts (x : State) (v : Byte) (ms : Nat) :
    (x.endOp v).tr.count (.delay ms) = x.tr.count (.delay ms) ∧ resetCount (x.endOp v).tr = resetCount x.tr := by
  unfold State.endOp State.diagEvents resetCount
  split <;> simp

theorem polls_eq (w : WaitScript) : w.polls = !(w.misses.filterMap id ++ w.found.toList).isEmpty := by
  obtain ⟨misses, found⟩ := w
  cases found with
  | some r => simp [WaitScript.polls]
  | none => induction misses with
    | nil => rfl
    | cons x xs ih => cases x <;> simp_all [WaitScript.polls]

theorem sreq_waits {s : State} {r : Reply} {w : WaitScript} {levels : List Bool} {more : List Byte}
    (hs : s.Startable) (hn : s.a.len.toNat ≤ s.cfg.nmax) (hfit : r.Fits s.cfg s.a.len.toNat) (hid : r.id = resp s.a.cid)
    (hwait : s.waitFlag = true) (hgood : s.sval = true → r.Good s.a.soff.toNat)
    (hplays : w.Plays s.cfg s.a.nid (s.iterations s.a.tmo)) (hr : s.ready = r.levels ++ w.levels ++ levels)
    (hrx : s.rx = r.bytes ++ w.bytes ++ more) :
    ∃ t, exec .sreq s = .next t ∧
      t = { s with
        cmd := 0x10#8, done := true, res := w.result s.cfg, exp := resp s.a.cid, expv := !w.polls, wid := s.a.nid,
        iter := s.iterations s.a.tmo - w.misses.length, spin := t.spin, fb := t.fb,
        k := if w.polls = true then t.k else s.k, ready := levels, rx := more, tr := t.tr } ∧
      (∀ a, t.fbAt a = w.onto (ontoBuffer s.fbAt r) a) ∧ (w.found.isSome = true → t.k.cid = s.a.nid) ∧
      t.tr.count (.delay s.cfg.pollMs) = s.tr.count (.delay s.cfg.pollMs) + w.misses.length ∧
      resetCount t.tr = resetCount s.tr := by
  have ⟨⟨hb, hp, hd, hsel⟩, hv, _⟩ := hs
  have hve : (0x00#8, ([] : List Event)) =
      if s.sval = true then statusResult s.cfg r.pay s.a.soff.toNat else (0x00#8, []) := by
    split
    · next h => rw [statusResult, hgood h]
    · rfl
  obtain ⟨y, stale, hrun, -, hy, hfb⟩ := sreq_answered hs hn hfit hid (List.append_assoc .. ▸ hr)
    (List.append_assoc .. ▸ hrx) hve
  have hywait : y.waitFlag = true := by rw [hy]; exact hwait
  rw [if_pos rfl, State.sreqWait, if_pos hywait] at hrun
  have hynid : y.a = s.a := by rw [hy]
  have hycfg : y.cfg = s.cfg := by rw [hy]
  have hiter : y.iterations s.a.tmo = s.iterations s.a.tmo := by rw [State.iterations, hycfg]; rfl
  rw [hynid] at hrun
  have ⟨hmiss, _, hsome⟩ := hplays
  have hcost : r.p + r.q + 16 ≤ s.passCost := reply_cost hfit (by rw [hr]; simp)
  have hfound : ∀ r' ∈ w.found, r'.p + r'.q + 11 ≤ s.passCost := by
    intro r' hr'
    obtain ⟨-, hfit', -⟩ := hsome r' hr'
    have := reply_cost hfit' (by rw [hr, WaitScript.levels, Option.mem_def.mp hr']; simp; omega)
    omega
  obtain ⟨x, d, hx, hrun', hk⟩ := run_wait (s := y) (nid := s.a.nid) (tmo := s.a.tmo) (c := s.passCost)
    (by rw [hy]) (by rw [hy]; exact hp) (by rw [hy]; exact hsel) (by rw [hycfg]; exact hv)
    (by rw [hycfg, hiter]; exact hplays) (by rw [hy]) (by rw [hy]) (by rw [State.passCost]; omega)
    (misses_cost (s := s) hmiss (by rw [hr, WaitScript.levels, ← List.append_assoc, List.append_assoc])) hfound
  have hlast : (w.found.elim (x.failWith .timeout) fun c => x.matched c.pay.length) = x.endOp (w.result s.cfg) := by
    have hc : x.cmd = 0x10#8 := by rw [hx.state, hy]
    have hcfg : x.cfg = s.cfg := by rw [hx.state, hy]
    unfold WaitScript.result
    cases w.found with
    | none => rw [← hcfg]; rfl
    | some c => exact matched_sreq hc _
  rw [hiter] at hx hrun'
  rw [hlast] at hrun'
  have hallowed := wait_allowed (m := s.iterations s.a.tmo) (n := r.p + r.q + 11) hv (Nat.le_refl _) (by omega)
  obtain ⟨hdelay, hreset⟩ := trace_counts r ([s.a.len, msb s.a.cid, lsb s.a.cid] ++ s.fbBytes 3 s.a.len.toNat) stale
    s.cfg.pollMs
  refine ⟨_, exec_within rfl hs (hrun.trans hrun') (by omega) rfl, ?_, ?_, hk, ?_, ?_⟩
  · have hk' : w.polls = false → x.k = s.k := fun h => by
      rw [polls_eq, Bool.not_eq_false'] at h
      rw [hx.k (List.isEmpty_iff.mp h), hy]
    rw [hx.state, hy]
    simpa [State.endOp, hb, hd, polls_eq w] using hk'
  · intro a
    have hyfb : y.fbAt = ontoBuffer s.fbAt r := funext hfb
    rw [WaitScript.onto, ← hyfb]
    exact hx.fbAt a
  · have hdelays := hx.delays
    simp only [hycfg] at hdelays
    rw [(endOp_counts x _ _).1, hdelays, hy]
    simp only [List.append_nil, List.count_append, hdelay, Nat.add_zero]
  · rw [(endOp_counts x _ s.cfg.pollMs).2, hx.resets, hy]
    rw [resetCount] at hreset
    simp only [resetCount, List.append_nil, List.count_append, hreset, Nat.add_zero]

/-- Settles O33: `SREQ` ends with its status, or goes on to its wait. -/
theorem genericRequest : Obligations.GenericRequest := fun _ _ _ _ hs hn hfit hid =>
  ⟨fun _ _ hr hrx hve hend => sreq_ends hs hn hfit hid hr hrx hve hend,
    fun _ hwait hgood hplays hr hrx => sreq_waits hs hn hfit hid hwait hgood hplays hr hrx⟩

end Sys2Proof.Machine
end

section
/-! SUPPORT. Where one step takes the dispatcher (R174). -/
namespace Sys2Proof.Machine

/-! ### The dispatcher diagram (R174) -/

theorem Proceeds.ds {s t : State} {D : DState → Prop} (h : Proceeds s D t) : t.ds = .dIdle ∨ D t.ds := by
  obtain h | ⟨d, hd, h⟩ := h
  · exact .inl h.ds
  · exact .inr (h.ds ▸ hd)

theorem Stepped.ds {s t : State} {D : DState → Prop} (h : Stepped s D t) : t.ds = .dIdle ∨ D t.ds := by
  obtain ⟨u, -, h⟩ := h
  exact h.ds

/-- Where an operation may end, a step that ends it or goes on along the diagram follows the diagram. -/
theorem follows_of_ends_or {d e : DState} (hidle : d.follows .dIdle = true)
    (h : e = .dIdle ∨ d.follows e = true) : d.follows e = true := by
  obtain rfl | h := h
  · exact hidle
  · exact h

/-- Between exchanges, by the dispatcher state the block stands at. -/
theorem idlePhaseStep_follows {s : State} (hb : s.busy = true) : s.ds.follows s.idlePhaseStep.ds = true := by
  have exchange : s.ds.follows s.ds = true → s.ds.follows s.exchangeStep.ds = true := fun h => by
    rwa [(shifts_exchangeStep s).ds]
  unfold State.idlePhaseStep
  split
  case h_1 h =>
    exact h ▸ follows_of_ends_or rfl (directStep_stepped (D := fun d => DState.dIdle.follows d = true) hb h).ds
  case h_2 h =>
    exact h ▸ follows_of_ends_or rfl
      (validateStep_proceeds (D := fun d => DState.dValidate.follows d = true) (fun _ => rfl) rfl).ds
  case h_3 h => rw [h, (buildStep_goes s).ds]; rfl
  case h_4 h => exact exchange (by rw [h]; rfl)
  case h_5 h =>
    exact h ▸ follows_of_ends_or rfl
      (respond_responds (D := fun d => DState.dStatus.follows d = true) _ (fun _ => rfl) rfl).stepped.ds
  case h_6 h => rw [h, (goes_sampleStep s).ds]; split <;> rfl
  case h_7 h => exact exchange (by rw [h]; rfl)
  case h_8 h =>
    exact h ▸ follows_of_ends_or rfl
      (interpret_stepped (D := fun d => DState.dWaitClassify.follows d = true) _ _ _ (.inl h) fun _ => rfl).ds
  case h_9 h =>
    exact h ▸ follows_of_ends_or rfl (delayStep_proceeds (D := fun d => DState.dWaitDelay.follows d = true) rfl).ds
  case h_10 h =>
    exact h ▸ follows_of_ends_or rfl (chunkStep_proceeds (D := fun d => DState.dChunk.follows d = true) rfl).ds
  case h_11 h => rw [h]; rfl

/-- What follows an exchange, by whether it was the poll of a wait (R160, R166). -/
theorem afterExchange_follows {s : State} (hd : s.ds = .dExchange ∨ s.ds = .dWaitPoll) :
    s.ds.follows s.afterExchange.ds = true := by
  obtain hd | hd := hd
  · exact hd ▸ follows_of_ends_or rfl (afterExchange_proceeds (D := fun d => DState.dExchange.follows d = true)
      (by simp [hd]) rfl fun _ => rfl).ds
  · rw [State.afterExchange, if_pos hd, hd]
    rfl

/-- Settles O14: between exchanges by `DS`, inside one the dispatcher stands still, and behind one it goes on. -/
theorem dispatcherDiagram : Obligations.DispatcherDiagram := by
  intro s hs hb
  obtain ⟨-, -, -, hc⟩ := (coherent_iff s).mp hs
  cases tick_cases hb with
  | exchange hx ht =>
    obtain h | h := hx.elim hc.exchange id <;> rw [ht.ds, h] <;> rfl
  | between hp _ =>
    have ht : s.tick = s.idlePhaseStep := by simp only [State.tick, hp]
    exact ht ▸ idlePhaseStep_follows hb
  | ended hp _ =>
    have hd : s.ds = .dExchange ∨ s.ds = .dWaitPoll := hc.exchange (by obtain hp | hp := hp <;> simp [hp])
    obtain hp | hp := hp
    · have ht : s.tick = s.completeStep := by simp only [State.tick, hp]
      obtain h | ⟨-, h⟩ := completeStep_cases s
      · obtain hd | hd := hd <;> rw [ht, h, exchangeError_ds, hd] <;> rfl
      · rw [ht, h]
        exact afterExchange_follows (s := s.toPh .idle) hd
    · have ht : s.tick = s.leaveError := by simp only [State.tick, hp]
      obtain hd | hd := hd <;> rw [ht, hd] <;> rfl

/-! ### Validation (R161) -/

/-- An operation that is refused at `D_VALIDATE` ends there: `CMD`, `RES`, `DONE` and the diagnostics record (R161). -/
theorem exec_refused {i : Instr} {op : Byte} {k : ResultKind} {s : State} (hop : decodeOp op = .ok i)
    (hstart : startState op = .dValidate) (hs : s.Startable)
    (hk : (s.beginOp op).validateStep = (s.beginOp op).failWith k) :
    exec i s = .next (s.refusedWith op (ResultCodes.code s.cfg.rc k)) := by
  have ⟨⟨hb, hp, hd, _⟩, _, _⟩ := hs
  have ht : (s.beginOp op).tick = (s.beginOp op).failWith k :=
    (tick_validate (b := s.beginOp op) hp hstart).trans hk
  have hallowed := exchange_allowed (s := s) (Nat.zero_le _) (Nat.zero_le _)
  rw [exec_within hop hs (.tick rfl ht) (by omega) rfl]
  simp [State.failWith, State.endOp, State.beginOp, State.refusedWith, diagEvents_eq, hb, hd]

section
variable {s : State} {k : ResultKind} (hs : s.Startable)
include hs

theorem sreq_refused (h : s.cfg.nmax < s.a.len.toNat) :
    exec .sreq s = .next (s.refusedWith 0x10#8 s.cfg.rc.invalidLength) :=
  exec_refused (k := .invalidLength) rfl rfl hs (if_pos h)

theorem afsend_refused (h : s.afsendCheck = some k) :
    exec .afsend s = .next (s.refusedWith 0x11#8 (ResultCodes.code s.cfg.rc k)) := by
  have hr : (s.beginOp 0x11#8).running = some .afsend := rfl
  have hk : (s.beginOp 0x11#8).afsendCheck = some k := h
  exact exec_refused rfl rfl hs (by simp only [State.validateStep, hr, hk])

theorem afsendx_refused (h : s.afsendxCheck = some k) :
    exec .afsendx s = .next (s.refusedWith 0x12#8 (ResultCodes.code s.cfg.rc k)) := by
  have hr : (s.beginOp 0x12#8).running = some .afsendx := rfl
  have hk : (s.beginOp 0x12#8).afsendxCheck = some k := h
  exact exec_refused rfl rfl hs (by simp only [State.validateStep, hr, hk])

theorem afretrx_refused (h : s.afretrxCheck = some k) :
    exec .afretrx s = .next (s.refusedWith 0x13#8 (ResultCodes.code s.cfg.rc k)) := by
  have hr : (s.beginOp 0x13#8).running = some .afretrx := rfl
  have hk : (s.beginOp 0x13#8).afretrxCheck = some k := h
  exact exec_refused rfl rfl hs (by simp only [State.validateStep, hr, hk])

end

/-- Settles O32: each clause makes one check of its operation fail and those before it pass. -/
theorem validationRefuses : Obligations.ValidationRefuses := by
  intro s hs
  refine ⟨sreq_refused hs, fun i op hi => ?_, fun hd hc => ⟨fun hl => ?_, fun hl hx => ?_, fun hl => ?_,
    fun hl hl' hx => ?_⟩, fun hd => ?_, fun hd hl => ?_, fun hd hl hx => ?_⟩
  · obtain ⟨rfl, rfl⟩ | ⟨rfl, rfl⟩ := hi
    · exact ⟨fun hd => afsend_refused hs (k := .nullParameter) (by simp [State.afsendCheck, hd]),
        fun hd hc => afsend_refused hs (k := .invalidCluster) (by simp [State.afsendCheck, hd, hc])⟩
    · exact ⟨fun hd => afsendx_refused hs (k := .nullParameter) (by simp [State.afsendxCheck, hd]),
        fun hd hc => afsendx_refused hs (k := .invalidCluster) (by simp [State.afsendxCheck, hd, hc])⟩
  · exact afsend_refused hs (k := .invalidLength) (by simp [State.afsendCheck, hd, hc, hl])
  · exact afsend_refused hs (k := .invalidParameter) (by simp [State.afsendCheck, hd, hc, Nat.not_lt.mpr hl, hx])
  · exact afsendx_refused hs (k := .invalidLength) (by simp [State.afsendxCheck, hd, hc, hl])
  · refine afsendx_refused hs (k := .invalidParameter) ?_
    simp only [State.afsendxCheck, hd, hc, Nat.not_le.mpr hl, Nat.not_lt.mpr hl']
    obtain hx | hx := hx <;> simp [hx]
  · exact afretrx_refused hs (k := .nullParameter) (by simp [State.afretrxCheck, hd])
  · exact afretrx_refused hs (k := .invalidLength) (by simp [State.afretrxCheck, hd, hl])
  · exact afretrx_refused hs (k := .invalidParameter) (by simp [State.afretrxCheck, hd, Nat.not_lt.mpr hl, hx])

end Sys2Proof.Machine
end

section
/-! SUPPORT. Whole waits on a silent Module (R166, R167), event by event, and how `WAITN` comes to its wait (R165). -/
namespace Sys2Proof.Machine

/-! ### A silent Module (R167 a, b) -/

/-- `z` after `n` iterations on a silent Module: each is a sample of 0 and a delay. -/
def State.silent (z : State) (n : Nat) (levels : List Bool) : State :=
  { z with
    iter := z.iter - n, ready := levels,
    tr := z.tr ++ (List.replicate n [Event.rdRdy false, Event.delay z.cfg.pollMs]).flatten }

theorem silent_silent (z : State) (m n : Nat) (levels levels' : List Bool) :
    (z.silent m levels).silent n levels' = z.silent (m + n) levels' := by
  simp only [State.silent, Nat.sub_sub, List.replicate_add, List.flatten_append, List.append_assoc]

theorem inWait_silent {z : State} {d : DState} (h : InWait z d) (n : Nat) (levels : List Bool) :
    InWait (z.silent n levels) d := ⟨h.busy, h.ph, h.sel, h.ds, h.valid⟩

theorem run_silent_pass {z : State} {levels : List Bool} (h : InWait z .dWaitSample) (hr : z.ready = false :: levels) :
    Within 2 z (if z.iter - 1 = 0 then (z.silent 1 levels).failWith .timeout else z.silent 1 levels) := by
  have hsample : z.tick = { z with ready := levels, tr := z.tr ++ [.rdRdy false], ds := .dWaitDelay } := by
    rw [tick_inWait h, State.idlePhaseStep, h.ds]
    simp [State.sampleStep, nextReady_cons hr, sampled_cons hr, State.toDs]
  have hdelay := run_delay (z := { z with ready := levels, tr := z.tr ++ [.rdRdy false], ds := .dWaitDelay })
    ⟨h.busy, h.ph, h.sel, rfl, h.valid⟩
  convert (Within.tick h.busy hsample).trans hdelay using 2
  · simp [State.silent, State.delayed, State.emit, State.failWith, State.endOp, State.diagEvents]
  · simp [State.silent, State.delayed, State.emit, State.toDs, ← h.ds]

theorem run_silent {z : State} {n : Nat} {levels : List Bool} (h : InWait z .dWaitSample) (hi : z.iter = n + 1)
    (hr : z.ready = List.replicate (n + 1) false ++ levels) :
    Within (2 * (n + 1)) z ((z.silent (n + 1) levels).failWith .timeout) := by
  induction n generalizing z with
  | zero =>
    have hpass := run_silent_pass h hr
    rwa [if_pos (by omega)] at hpass
  | succ n ih =>
    obtain ⟨rest, hrest⟩ : ∃ rest, rest = List.replicate (n + 1) false ++ levels := ⟨_, rfl⟩
    have hpass := run_silent_pass (levels := rest) h (by rw [hr, hrest]; rfl)
    rw [if_neg (by omega)] at hpass
    have hon := ih (inWait_silent h 1 rest) (by simp only [State.silent]; omega) hrest
    rw [silent_silent, Nat.add_comm 1] at hon
    exact (hpass.trans hon).mono (by omega)

/-- A whole wait on a silent Module, of no iteration or of some. -/
theorem startWait_silent {s : State} {d : DState} {nid : Word16} {tmo : Byte} {levels : List Bool} (h : InWait s d)
    (hr : s.ready = List.replicate (s.iterations tmo) false ++ levels) :
    Within (2 * s.iterations tmo) (s.startWait nid tmo)
      ((State.silent { s with wid := nid, iter := s.iterations tmo } (s.iterations tmo) levels).failWith .timeout) := by
  cases hn : s.iterations tmo with
  | zero =>
    rw [hn] at hr
    obtain rfl : s.ready = levels := hr
    rw [State.startWait, if_pos hn]
    convert Within.refl _ using 2
    simp [State.silent]
  | succ n =>
    rw [State.startWait, if_neg (by omega), hn]
    exact run_silent (z := { s with wid := nid, iter := n + 1, ds := .dWaitSample }) ⟨h.busy, h.ph, h.sel, rfl, h.valid⟩
      rfl (hn ▸ hr)

/-- `WAITN` goes straight to its wait (R165). -/
theorem waitn_opens {s : State} (hs : s.Startable) :
    InWait (s.beginOp 0x05#8) .dValidate ∧
      Within 1 (s.beginOp 0x05#8) ((s.beginOp 0x05#8).startWait s.a.nid s.a.tmo) := by
  obtain ⟨⟨-, hp, -, hsel⟩, hv, -⟩ := hs
  exact ⟨⟨rfl, hp, hsel, rfl, hv⟩,
    .tick rfl ((tick_validate (b := s.beginOp 0x05#8) hp rfl).trans (validateStep_waitn rfl))⟩

/-- Settles O38: each iteration is a sample of 0 and a delay, and the last one ends the wait. -/
theorem idleWait : Obligations.IdleWait := by
  rintro s n levels hs rfl hr
  have ⟨⟨hb, _, hd, _⟩, hv, _⟩ := hs
  obtain ⟨hin, hopen⟩ := waitn_opens hs
  have hrun := hopen.trans (startWait_silent (nid := s.a.nid) (tmo := s.a.tmo) hin hr)
  have hcost : 2 ≤ s.passCost := by rw [State.passCost]; omega
  have hallowed := wait_allowed (n := 1) hv (Nat.le_refl _) (by omega)
  have hle := Nat.mul_le_mul_left (s.iterations s.a.tmo) hcost
  rw [exec_within rfl hs hrun (by show 1 + 2 * s.iterations s.a.tmo ≤ _; omega) rfl]
  simp [State.failWith, State.endOp, State.silent, State.beginOp, diagEvents_eq, hb, hd, ResultCodes.code,
    State.iterations]

end Sys2Proof.Machine
end

section
/-! SUPPORT. Whole waits as the Module plays them (R166 to R168): the operation that waits, from the entry of its wait to
its end, and the statements about `WAITN` and the confirmed `AFSEND`. -/
namespace Sys2Proof.Machine

/-! ### The frame a wait finds (R166, R211) -/

/-- A frame of a nonzero length, not expected, is classified by its id (R112, R212). -/
theorem classified_kind {z : State} (h0 : z.fbAt 0 ≠ 0#8) (he : z.expv = false) :
    z.classified.k.kind = (variantOfId z.cfg.cid z.frameCid).code := by
  have hv := selectVariant_own (s := z) (id := z.frameCid) (variantOfId z.cfg.cid z.frameCid) h0 (by simp [he])
  obtain ⟨hkind, -⟩ := extract_common z
    (z.selectVariant (variantOfId z.cfg.cid z.frameCid) (z.fbAt 0) z.frameCid)
    (z.classCommon (z.selectVariant (variantOfId z.cfg.cid z.frameCid) (z.fbAt 0) z.frameCid) (z.fbAt 0) z.frameCid)
  exact hkind.trans (congrArg Variant.code hv)

theorem toDs_of_ds {z : State} {d : DState} (h : z.ds = d) : z.toDs d = z := by
  rw [← h]
  rfl

/-- The length byte of a frame that fits (R64, R91). -/
theorem frameLen_of_fbAt {z : State} {n : Nat} (hv : z.cfg.valid = true) (hn : n ≤ z.cfg.nmax)
    (h : z.fbAt 0 = BitVec.ofNat 8 n) : z.frameLen = n := by
  rw [State.frameLen, h]
  exact Nat.mod_eq_of_lt (by have := nmax_lt_of_valid hv; omega)

theorem startWait_waited {s : State} {d : DState} {nid : Word16} {tmo : Byte} (h : InWait s d)
    (hn : s.iterations tmo ≠ 0) :
    InWait (s.startWait nid tmo) .dWaitSample ∧
      Waited { s with wid := nid, iter := s.iterations tmo } (s.startWait nid tmo) 0 [] .dWaitSample s.ready s.rx := by
  rw [State.startWait, if_neg hn]
  exact ⟨⟨h.busy, h.ph, h.sel, rfl, h.valid⟩, by simp, fun _ => rfl, fun _ => rfl, rfl, rfl⟩

/-- `run_wait` for a wait that finds its frame, down to the classification: `z` is the state whose `FB` is classified. -/
theorem run_wait_found {s : State} {d : DState} {misses : List Pass} {r : Reply} {tmo : Byte} {levels : List Bool}
    {more : List Byte} {c : Nat} (hin : InWait s d) (hm : ∀ x ∈ misses, Pass.misses s.cfg r.id x = true)
    (hlen : misses.length < s.iterations tmo) (hfit : r.Fits s.cfg 0) (hpay : r.pay ≠ [])
    (hr : s.ready = misses.flatMap passLevels ++ true :: (r.levels ++ levels))
    (hrx : s.rx = misses.flatMap passBytes ++ (r.bytes ++ more)) (hc : 2 ≤ c)
    (hcost : ∀ x ∈ misses, ∀ r ∈ x, r.p + r.q + 11 ≤ c) (hcost' : r.p + r.q + 11 ≤ c) :
    ∃ z, Waited { s with wid := r.id, iter := s.iterations tmo } z misses.length (misses.filterMap id ++ [r])
        .dWaitClassify levels more ∧
      Within (s.iterations tmo * c) (s.startWait r.id tmo) (z.classified.matched r.pay.length) ∧
      InWait z .dWaitClassify ∧ z.fbAt 0 ≠ 0#8 ∧ z.frameCid = r.id := by
  obtain ⟨hstart, hs⟩ := startWait_waited (nid := r.id) hin (Nat.ne_zero_of_lt hlen)
  obtain ⟨y, hrun, hy⟩ := run_misses (levels := true :: (r.levels ++ levels)) (more := r.bytes ++ more) hc hstart
    (by rw [hs.state]; exact hlen) (by rw [hs.state]; exact hm) hcost (by rw [hs.state]; exact hr)
    (by rw [hs.state]; exact hrx)
  have hyin := hy.inWait hstart
  obtain ⟨x, hrun', hx⟩ := run_sample hyin (by rw [hy.state])
  have hsx := (hs.trans hy).trans hx
  have hxin := hx.inWait hyin
  obtain ⟨z, hrun'', hz, hz0, hzid⟩ := run_poll hxin (by rw [hsx.state]; exact hfit) (by rw [hsx.state])
    (by rw [hsx.state, hy.state])
  have hsz := hsx.trans hz
  have hzin := hz.inWait hxin
  have hle : r.pay.length ≤ z.cfg.nmax := by rw [hsz.state]; exact hfit.2.2.2
  have hne : z.fbAt 0 ≠ 0#8 := by
    have := nmax_lt_of_valid hzin.valid
    rw [hz0]
    exact ofNat_ne_zero (List.length_pos_iff.mpr hpay) (by omega)
  have ht := tick_classify hzin
  rw [if_pos ⟨hne, by rw [hzid, hsz.state]⟩, frameLen_of_fbAt hzin.valid hle hz0] at ht
  refine ⟨z, by simpa using hsz, ?_, hzin, hne, hzid⟩
  refine (((hrun.trans hrun').trans hrun'').trans (.tick hzin.busy ht)).mono ?_
  calc misses.length * c + 1 + (r.p + r.q + 8) + 1 ≤ (misses.length + 1) * c := by rw [Nat.succ_mul]; omega
    _ ≤ s.iterations tmo * c := Nat.mul_le_mul_right c hlen

/-- `run_wait`, and the `KIND` of the frame it finds: that of the awaited id (R112). -/
theorem run_wait_kind {s : State} {d : DState} {w : WaitScript} {nid : Word16} {tmo : Byte} {levels : List Bool}
    {more : List Byte} {c : Nat} (hin : InWait s d) (hw : w.Plays s.cfg nid (s.iterations tmo))
    (hr : s.ready = w.levels ++ levels) (hrx : s.rx = w.bytes ++ more) (hc : 2 ≤ c)
    (hcost : ∀ x ∈ w.misses, ∀ r ∈ x, r.p + r.q + 11 ≤ c) (hcost' : ∀ r ∈ w.found, r.p + r.q + 11 ≤ c) :
    ∃ y e, Waited { s with wid := nid, iter := s.iterations tmo } y w.misses.length
        (w.misses.filterMap id ++ w.found.toList) e levels more ∧
      Within (s.iterations tmo * c) (s.startWait nid tmo)
        (w.found.elim (y.failWith .timeout) fun r => y.matched r.pay.length) ∧
      (w.found.isSome = true → y.k.kind = (variantOfId s.cfg.cid nid).code ∧ y.k.cid = nid) := by
  obtain ⟨misses, found⟩ := w
  cases found with
  | none =>
    obtain ⟨y, e, hy, hrun, -⟩ := run_wait hin.busy hin.ph hin.sel hin.valid hw hr hrx hc hcost hcost'
    exact ⟨y, e, hy, hrun, nofun⟩
  | some r =>
    obtain ⟨hm, -, hsome⟩ := hw
    obtain ⟨hlen, hfit, rfl, hpay⟩ := hsome r rfl
    obtain ⟨z, hz, hrun, hzin, h0, hid⟩ := run_wait_found hin hm hlen hfit hpay (by simpa [WaitScript.levels] using hr)
      (by simpa [WaitScript.bytes] using hrx) hc hcost (hcost' r rfl)
    have hds : z.classified.toDs .dWaitClassify = z.classified := toDs_of_ds hzin.ds
    have hkind := classified_kind h0 (by rw [hz.state]; simp)
    have hcfg : z.cfg = s.cfg := by rw [hz.state]
    rw [hid, hcfg] at hkind
    exact ⟨z.classified, .dWaitClassify, hds ▸ hz.classified (by simp) .dWaitClassify, hrun,
      fun _ => ⟨hkind, (classified_cid z).trans hid⟩⟩

/-! ### An operation that ends with a wait (R162, R165, R172) -/

/-- What a wait that starts in `y` leaves behind in `t`, the end of its operation with `v`, the Bus events `events` among
the last. -/
structure WaitEnds (y t : State) (w : WaitScript) (nid : Word16) (n : Nat) (v : Byte) (events : List Event)
    (levels : List Bool) (more : List Byte) : Prop where
  state : t = { y with
    ds := .dIdle, busy := false, done := true, res := v, expv := !w.polls && y.expv, wid := nid,
    iter := n - w.misses.length, spin := t.spin, fb := t.fb, k := if w.polls = true then t.k else y.k, ready := levels,
    rx := more, tr := t.tr }
  fbAt : ∀ a, t.fbAt a = w.onto y.fbAt a
  found : w.found.isSome = true → t.k.kind = (variantOfId y.cfg.cid nid).code ∧ t.k.cid = nid
  delays : t.tr.count (.delay y.cfg.pollMs) = y.tr.count (.delay y.cfg.pollMs) + w.misses.length
  resets : resetCount t.tr = resetCount y.tr + resetCount events

theorem Waited.waitEnds {y x : State} {w : WaitScript} {nid : Word16} {n : Nat} {v : Byte} {events : List Event}
    {e : DState} {levels : List Bool} {more : List Byte}
    (h : Waited { y with wid := nid, iter := n } x w.misses.length (w.misses.filterMap id ++ w.found.toList) e levels
      more)
    (hk : w.found.isSome = true → x.k.kind = (variantOfId y.cfg.cid nid).code ∧ x.k.cid = nid)
    (hev : Event.delay y.cfg.pollMs ∉ events) :
    WaitEnds y (State.endOp { x with tr := x.tr ++ events } v) w nid n v events levels more := by
  obtain ⟨hdelay, hreset⟩ := endOp_counts { x with tr := x.tr ++ events } v y.cfg.pollMs
  refine ⟨?_, h.fbAt, hk, ?_, ?_⟩
  · have hkeep : w.polls = false → x.k = y.k := fun hp => by
      rw [polls_eq, Bool.not_eq_false'] at hp
      exact h.k (List.isEmpty_iff.mp hp)
    have hx := h.state
    rw [polls_eq, Bool.not_not]
    rw [polls_eq] at hkeep
    rw [hx]
    simpa [State.endOp] using hkeep
  · have hdelays := h.delays
    rw [hdelay, List.count_append, List.count_eq_zero_of_not_mem hev, Nat.add_zero]
    exact hdelays
  · rw [hreset, resetCount, List.count_append]
    exact congrArg (· + resetCount events) h.resets

/-- A host operation that comes to a wait in `y` and leaves it with `v`. -/
theorem exec_waits {i : Instr} {op : Byte} {s y : State} {d : DState} {w : WaitScript} {nid : Word16} {n : Nat}
    {levels pre : List Bool} {more : List Byte} {v : Byte} {events : List Event} (hop : decodeOp op = .ok i)
    (hs : s.Startable) (hy : InWait y d) (hcfg : y.cfg = s.cfg)
    (hrun : Within n (s.beginOp op) (y.startWait nid s.a.tmo)) (hn : n ≤ 2 * s.passCost)
    (hplays : w.Plays s.cfg nid (s.iterations s.a.tmo)) (hpre : s.ready = pre ++ y.ready)
    (hr : y.ready = w.levels ++ levels) (hrx : y.rx = w.bytes ++ more) (hev : Event.delay y.cfg.pollMs ∉ events)
    (hend : ∀ x e, Waited { y with wid := nid, iter := s.iterations s.a.tmo } x w.misses.length
        (w.misses.filterMap id ++ w.found.toList) e levels more →
      (w.found.elim (x.failWith .timeout) fun c => x.matched c.pay.length) =
        State.endOp { x with tr := x.tr ++ events } v) :
    ∃ t, exec i s = .next t ∧ WaitEnds y t w nid (s.iterations s.a.tmo) v events levels more := by
  have ⟨_, hv, _⟩ := hs
  have ⟨hmiss, _, hsome⟩ := hplays
  have hiter : y.iterations s.a.tmo = s.iterations s.a.tmo := by rw [State.iterations, hcfg]; rfl
  have hfound : ∀ r ∈ w.found, r.p + r.q + 11 ≤ s.passCost := by
    intro r hr'
    obtain ⟨-, hfit, -⟩ := hsome r hr'
    have := reply_cost hfit (by rw [hpre, hr, WaitScript.levels, Option.mem_def.mp hr']; simp; omega)
    omega
  obtain ⟨x, e, hx, hrun', hk⟩ := run_wait_kind (tmo := s.a.tmo) (c := s.passCost) hy (by rw [hcfg, hiter]; exact hplays)
    hr hrx (by rw [State.passCost]; omega)
    (misses_cost (s := s) (pre := pre) (post := w.found.elim [] (fun c => true :: c.levels) ++ levels) hmiss
      (by rw [hpre, hr, WaitScript.levels]; simp only [List.append_assoc]))
    hfound
  rw [hiter] at hx hrun'
  rw [hend x e hx] at hrun'
  have hallowed := wait_allowed hv (Nat.le_refl _) hn
  exact ⟨_, exec_within hop hs (hrun.trans hrun') (by omega) rfl, hx.waitEnds hk hev⟩

/-! ### `WAITN` (R165) -/

theorem matched_waitn {x : State} (hc : x.cmd = 0x05#8) (len : Nat) : x.matched len = x.endOp 0#8 := by
  have hr : x.running = some .waitn := by rw [State.running, hc]; rfl
  simp only [State.matched, hr]

theorem waitn_waits {s : State} {w : WaitScript} {levels : List Bool} {more : List Byte} (hs : s.Startable)
    (hplays : w.Plays s.cfg s.a.nid (s.iterations s.a.tmo)) (hr : s.ready = w.levels ++ levels)
    (hrx : s.rx = w.bytes ++ more) :
    ∃ t, exec .waitn s = .next t ∧
      WaitEnds (s.beginOp 0x05#8) t w s.a.nid (s.iterations s.a.tmo) (w.result s.cfg) [] levels more := by
  obtain ⟨hin, hopen⟩ := waitn_opens hs
  refine exec_waits (pre := []) rfl hs hin rfl hopen (by rw [State.passCost]; omega) hplays rfl hr hrx
    List.not_mem_nil fun x e hx => ?_
  have hc : x.cmd = 0x05#8 := by rw [hx.state]; rfl
  have hcfg : x.cfg = s.cfg := by rw [hx.state]; rfl
  rw [List.append_nil, WaitScript.result]
  cases w.found with
  | none => rw [← hcfg]; rfl
  | some c => exact matched_waitn hc _

/-- Settles O36: a wait whose script finds the frame. -/
theorem waitMatches : Obligations.WaitMatches := by
  intro s c misses levels more hs hlen hm hfit hid hpay hr hrx
  have ⟨⟨hb, _, hd, _⟩, _, _⟩ := hs
  obtain ⟨t, hexec, ht⟩ := waitn_waits (w := ⟨misses, some c⟩) (levels := levels) (more := more) hs
    ⟨hm, nofun, fun r hr => by obtain rfl := Option.some.inj hr; exact ⟨hlen, hfit, hid, hpay⟩⟩ hr hrx
  have hfb (a : Nat) : t.fbAt a = ontoBuffer ((misses.filterMap id).foldl ontoBuffer s.fbAt) c a := by
    rw [ht.fbAt, WaitScript.onto, List.foldl_append]
    rfl
  refine ⟨t, hexec, ?_, fbBytes_ontoBuffer hfb, (ht.found rfl).2, ht.delays, ht.resets⟩
  rw [ht.state]
  simp [State.beginOp, WaitScript.polls, WaitScript.result, hb, hd, State.iterations]

/-- Settles O37: a wait whose script misses in all its iterations. -/
theorem waitTimesOut : Obligations.WaitTimesOut := by
  intro s misses levels more hs hlen hm hr hrx
  have ⟨⟨hb, _, hd, _⟩, _, _⟩ := hs
  obtain ⟨t, hexec, ht⟩ := waitn_waits (w := ⟨misses, none⟩) (levels := levels) (more := more) hs
    ⟨hm, fun _ => hlen, nofun⟩ (by simpa [WaitScript.levels] using hr) (by simpa [WaitScript.bytes] using hrx)
  refine ⟨t, hexec, ?_, ht.delays, ht.resets⟩
  have hiter : s.iterations s.a.tmo - misses.length = 0 := by rw [hlen]; exact Nat.sub_self _
  rw [ht.state]
  simp [State.beginOp, WaitScript.result, hb, hd, hiter]

end Sys2Proof.Machine
end

section
/-! SUPPORT. `AFSEND` answered (R170, R173), and the confirm it waits for (R172). -/
namespace Sys2Proof.Machine

/-! ### The status byte of a frame in `FB` (R163) -/

section
variable {x : State} {r : Reply} {f : Nat → Byte} (hfb : ∀ a, x.fbAt a = ontoBuffer f r a)
include hfb

theorem field8_ontoBuffer {off : Nat} (h : off < r.pay.length) : x.field8 off = r.pay[off] := by
  rw [State.field8, hfb, ontoBuffer, Reply.frame, List.getElem?_append_right (by simp [hdr])]
  simp [hdr, h]

/-- A status that goes on with success only: the operation ends with it, whatever it is (R163, R172). -/
theorem withStatus_endOp {off : Nat} {v : Byte} {events : List Event} (hsel : x.sel = false)
    (hve : (v, events) = statusResult x.cfg r.pay off) :
    x.withStatus r.pay.length off (x.endOp 0#8) = State.endOp { x with tr := x.tr ++ events } v := by
  unfold State.withStatus State.statusByte
  rw [statusResult] at hve
  split_ifs with hlen
  · rw [List.getElem?_eq_none hlen] at hve
    obtain ⟨rfl, rfl⟩ := Prod.mk.inj hve
    rw [State.busReset, ← hsel]
    rfl
  · rw [List.getElem?_eq_getElem (by omega)] at hve
    obtain ⟨rfl, rfl⟩ := Prod.mk.inj hve
    rw [field8_ontoBuffer hfb (by omega), List.append_nil]
    exact ite_eq_right_iff.mpr fun h0 => by rw [h0]

end

/-! ### `AFSEND` up to its status (R170, R173) -/

section
variable {x : State} (hc : x.cmd = 0x11#8)
include hc

theorem running_afsend : x.running = some .afsend := by
  rw [State.running, hc]
  rfl

theorem afterExchange_afsend (hd : x.ds = .dExchange) : x.afterExchange = x.toDs .dStatus := by
  simp only [State.afterExchange, hd, running_afsend hc]
  rfl

theorem afterStatus_afsend (len : Nat) : x.afterStatus len = x.confirmWait := by
  simp only [State.afterStatus, running_afsend hc]

theorem statusOffset_afsend : x.statusOffset = x.cfg.schema.requestSrsp.status.off := by
  simp only [State.statusOffset, running_afsend hc]

/-- A match in the wait of `AFSEND` reads the confirm's status (R172). -/
theorem matched_afsend (len : Nat) :
    x.matched len = x.withStatus len x.cfg.schema.confirm.status.off (x.endOp 0#8) := by
  simp only [State.matched, running_afsend hc]

end

theorem afsendCheck_none {s : State} (hd : s.dval = true) (hcl : s.a.clus ≠ 0#16)
    (hl : s.a.dlen.toNat ≤ s.cfg.afMaxData) (hx : s.a.dptr.toNat + s.a.dlen.toNat ≤ s.cfg.xcap) :
    s.afsendCheck = none := by
  simp [State.afsendCheck, hd, hcl, Nat.not_lt.mpr hl, Nat.not_lt.mpr hx]

/-- `AFSEND` answered with the paired id, at `D_STATUS`. -/
theorem afsend_answered {s : State} {r : Reply} {levels : List Bool} {more : List Byte} (hs : s.Startable)
    (hk : s.afsendCheck = none) (hfit : r.Fits s.cfg (10 + s.a.dlen.toNat)) (hid : r.id = resp s.cfg.cid.afDataRequest)
    (hr : s.ready = r.levels ++ levels) (hrx : s.rx = r.bytes ++ more) :
    ∃ (y : State) (stale : List Byte), Within (r.p + r.q + 10) (s.beginOp 0x11#8) y ∧ stale.length = r.pay.length ∧
      y = { s with
        cmd := 0x11#8, busy := true, done := y.done, ds := .dStatus, tseq := s.tseq + 1,
        exp := resp s.cfg.cid.afDataRequest, expv := true, spin := y.spin, fb := y.fb, ready := levels, rx := more,
        tr := s.tr ++ r.trace (s.sendDataFrame s.a.dlen.toNat) stale } ∧
      ∀ a, y.fbAt a = ontoBuffer s.fbAt r a := by
  have ⟨⟨_, hp, _, hsel⟩, hv, _⟩ := hs
  have hlen : (s.sendDataFrame s.a.dlen.toNat).length - 3 = 10 + s.a.dlen.toNat := by
    simp [State.sendDataFrame, State.xmBytes]
    omega
  obtain ⟨x, ho⟩ := opens_afsend hs (if_pos hk)
  obtain ⟨w, stale, hstale, hrun, hw⟩ := exchange_answered (ho.cfg ▸ hv) ho.launched (hlen ▸ hfit) (ho.ready ▸ hr)
    (ho.rx ▸ hrx)
  have hdone := hw.completes (.inr hid)
  rw [afterExchange_afsend (x := w.toPh .idle) (hw.cmd.trans ho.cmd) (hw.ds.trans ho.ds)] at hdone
  refine ⟨_, stale, ((ho.run.trans hrun).trans hdone).mono (by omega), hstale, ?_, fun a => ?_⟩
  · rw [hw.state]
    simp [State.toPh, State.toDs, hp, hsel]
  · exact (hw.fbAt a).trans (by simp only [ontoBuffer, State.fbAt])

/-! ### The wait for the confirm (R172) -/

/-- A good status opens the wait for the confirm (R172, R173). -/
theorem afsend_awaits {y : State} {r : Reply} {f : Nat → Byte} (h : InWait y .dStatus) (hc : y.cmd = 0x11#8)
    (ha : y.autowait = true) (hpay : r.pay.length ≤ y.cfg.nmax) (hfb : ∀ a, y.fbAt a = ontoBuffer f r a)
    (hgood : r.Good y.cfg.schema.requestSrsp.status.off) :
    Within 1 y (y.startWait y.cfg.cid.afDataConfirm y.a.tmo) := by
  obtain ⟨hlt, hzero⟩ := List.getElem?_eq_some_iff.mp hgood
  have hoff := statusOffset_afsend hc
  have hflen : y.frameLen = r.pay.length := frameLen_of_fbAt h.valid hpay (hfb 0)
  refine .tick h.busy ?_
  rw [tick_inWait h, State.idlePhaseStep, h.ds]
  show y.respond y.frameLen = _
  rw [hflen, respond_status (hoff ▸ hlt), hoff, field8_ontoBuffer hfb hlt, if_pos hzero, afterStatus_afsend hc,
    State.confirmWait, if_pos ha]

theorem variantOfId_confirm {c : Cfg} (hv : c.valid = true) : variantOfId c.cid c.cid.afDataConfirm = .dataConfirm := by
  have hnodup := (List.nodup_append.mp (ids_nodup_of_valid hv)).2.1
  obtain ⟨hne, -⟩ := List.nodup_cons.mp hnodup
  simp only [List.mem_cons, not_or] at hne
  obtain ⟨hmsg, hext, hstate, hannce, hleave, -⟩ := hne
  simp [variantOfId, hmsg, hext, hstate, hannce, hleave]

/-- The end of the wait for the confirm (R172). -/
theorem confirm_ends {x : State} {w : WaitScript} {f : Nat → Byte} {v : Byte} {events : List Event}
    (hc : x.cmd = 0x11#8) (hsel : x.sel = false)
    (hfb : ∀ a, x.fbAt a = w.onto f a) (hve : (v, events) = w.confirmed x.cfg) :
    (w.found.elim (x.failWith .timeout) fun c => x.matched c.pay.length) =
      State.endOp { x with tr := x.tr ++ events } v := by
  obtain ⟨misses, found⟩ := w
  cases found with
  | none =>
    obtain ⟨rfl, rfl⟩ := Prod.mk.inj hve
    rw [List.append_nil]
    rfl
  | some r =>
    have hlast (a : Nat) : x.fbAt a = ontoBuffer ((misses.filterMap id).foldl ontoBuffer f) r a := by
      rw [hfb, WaitScript.onto, List.foldl_append]
      rfl
    exact (matched_afsend hc _).trans (withStatus_endOp hlast hsel hve)

theorem delay_not_mem_confirmed {w : WaitScript} {c : Cfg} {v : Byte} {events : List Event} {ms : Nat}
    (hve : (v, events) = w.confirmed c) : Event.delay ms ∉ events := by
  obtain ⟨misses, found⟩ := w
  cases found with
  | none =>
    obtain ⟨-, rfl⟩ := Prod.mk.inj hve
    exact List.not_mem_nil
  | some r =>
    rw [show WaitScript.confirmed ⟨misses, some r⟩ c = statusResult c r.pay c.schema.confirm.status.off from rfl,
      statusResult] at hve
    split at hve <;> obtain ⟨-, rfl⟩ := Prod.mk.inj hve <;> simp

/-- Settles O35: the good response opens the wait, and the confirm that ends it brings the status. -/
theorem sendDataConfirmed : Obligations.SendDataConfirmed := by
  intro s r w levels more v events hs hauto hdval hclus hdlen hxm hfit hid hgood hplays hr hrx hve
  have ⟨⟨hb, hp, hd, hsel⟩, hv, _⟩ := hs
  obtain ⟨y, stale, hrun, -, hy, hfb⟩ := afsend_answered hs (afsendCheck_none hdval hclus hdlen hxm) hfit hid
    (List.append_assoc .. ▸ hr) (List.append_assoc .. ▸ hrx)
  have hcfg : y.cfg = s.cfg := by rw [hy]
  have hcmd : y.cmd = 0x11#8 := by rw [hy]
  have hin : InWait y .dStatus := by rw [hy]; exact ⟨rfl, hp, hsel, rfl, hv⟩
  have hopen := afsend_awaits hin hcmd (by rw [hy]; exact hauto) (by rw [hcfg]; exact hfit.2.2.2) hfb
    (by rw [hcfg]; exact hgood)
  rw [hcfg, show y.a = s.a by rw [hy]] at hopen
  have hcost : r.p + r.q + 16 ≤ s.passCost := reply_cost hfit (by rw [hr]; simp)
  obtain ⟨t, hexec, ht⟩ := exec_waits (pre := r.levels) (v := v) (events := events) rfl hs hin hcfg
    (hrun.trans hopen) (by omega) hplays (by rw [hr, hy, List.append_assoc]) (by rw [hy]) (by rw [hy])
    (delay_not_mem_confirmed hve) fun x e hx => confirm_ends (by rw [hx.state]; exact hcmd)
      (by rw [hx.state]; exact hin.sel) hx.fbAt (by rw [hx.state]; exact hcfg ▸ hve)
  obtain ⟨hdelay, hreset⟩ := trace_counts r (s.sendDataFrame s.a.dlen.toNat) stale s.cfg.pollMs
  have hdelays := ht.delays
  refine ⟨t, hexec, ?_, fun a => ?_, fun hfound => ?_, ?_, ?_⟩
  · refine ht.state.trans ?_
    rw [hy]
    simp [hb, hd, State.iterations]
  · rw [ht.fbAt, funext hfb]
  · obtain ⟨hkind, hcid⟩ := ht.found hfound
    rw [hcfg, variantOfId_confirm hv] at hkind
    exact ⟨hkind, hcid⟩
  · rw [hcfg, hy] at hdelays
    simpa [hdelay] using hdelays
  · rw [ht.resets, hy]
    rw [resetCount] at hreset
    simp [resetCount, hreset]

end Sys2Proof.Machine
end

section
/-! SUPPORT. What `CLSFY` writes: the classifier registers of a frame that nobody expects, variant by variant under the
default layouts (R213, R216 to R221), and which bytes of `FB` they rest on (R223). -/
namespace Sys2Proof.Machine

/-! ### The flags (R211, R213, R220) -/

/-- `INLINE` belongs to the extended message alone, so elsewhere `KFLAGS` is `TRUNC`. -/
theorem kflags_of_ne_ext {s : State} {v : Variant} {n : Nat} (hv : v ≠ .incomingExt) :
    s.kflags v n = if n < s.minLen v n then 0x01#8 else 0x00#8 := by
  have hinline : s.inlineFlag v n = false := by
    cases v
    case incomingExt => exact absurd rfl hv
    all_goals rfl
  rw [State.kflags, hinline, flags_trunc]
  simp [State.truncFlag]

/-- A message is truncated in its fixed part or in the data that follows it (R219). -/
theorem lt_minLen_incoming {s : State} (hs : s.cfg.schema = Config.layouts) (n : Nat) :
    n < s.minLen .incoming n ↔ n < 17 ∨ n < 17 + (s.fbAt 19).toNat := by
  have hmin : s.minLen .incoming n = if n < 17 then 17 else 17 + (s.fbAt 19).toNat := by
    simp [State.minLen, hs, Config.layouts]
  rw [hmin]
  split <;> omega

/-- An extended message is never both truncated and inline: the data stands behind the fixed part (R220). -/
theorem kflags_incomingExt {s : State} (hs : s.cfg.schema = Config.layouts) (n : Nat) :
    s.kflags .incomingExt n =
      if n < 27 then 0x01#8 else if 27 + (le16 (s.fbAt 28) (s.fbAt 29)).toNat ≤ n then 0x02#8 else 0x00#8 := by
  have htrunc : s.truncFlag .incomingExt n = decide (n < 27) := by
    simp [State.truncFlag, State.minLen, hs, Config.layouts]
  have hinline : s.inlineFlag .incomingExt n = decide (27 + (le16 (s.fbAt 28) (s.fbAt 29)).toNat ≤ n) := by
    simp [State.inlineFlag, hs, Config.layouts]
  rw [State.kflags, htrunc, hinline]
  by_cases h : n < 27
  · have hout : ¬ 27 + (le16 (s.fbAt 28) (s.fbAt 29)).toNat ≤ n := by omega
    simp [h, hout]
  · rw [decide_eq_false h, flags_inline, if_neg h]
    simp

/-! ### The field registers under the default layouts (R216 to R221) -/

section
variable {s : State} (hs : s.cfg.schema = Config.layouts) (k : ClassOut)
include hs

theorem extract_stateChange : s.extract .stateChange k = { k with state := s.fbAt 3 } := by
  simp [State.extract, hs, Config.layouts]

theorem extract_announce :
    s.extract .announce k = { k with
      addr1 := le16 (s.fbAt 3) (s.fbAt 4), addr2 := le16 (s.fbAt 5) (s.fbAt 6),
      mac := le64 (s.fbAt 7) (s.fbAt 8) (s.fbAt 9) (s.fbAt 10) (s.fbAt 11) (s.fbAt 12) (s.fbAt 13) (s.fbAt 14),
      cap := s.fbAt 15 } := by
  simp [State.extract, hs, Config.layouts]

theorem extract_deviceLeave :
    s.extract .deviceLeave k = { k with
      addr1 := le16 (s.fbAt 3) (s.fbAt 4),
      mac := le64 (s.fbAt 5) (s.fbAt 6) (s.fbAt 7) (s.fbAt 8) (s.fbAt 9) (s.fbAt 10) (s.fbAt 11) (s.fbAt 12),
      lvreq := s.fbAt 13, lvrem := s.fbAt 14, lvrej := s.fbAt 15 } := by
  simp [State.extract, hs, Config.layouts]

theorem extract_incoming :
    s.extract .incoming k = { k with
      group := le16 (s.fbAt 3) (s.fbAt 4), clus := le16 (s.fbAt 5) (s.fbAt 6), addr1 := le16 (s.fbAt 7) (s.fbAt 8),
      sep := s.fbAt 9, dep := s.fbAt 10, bcast := s.fbAt 11, lqi := s.fbAt 12, sec := s.fbAt 13,
      ts := le32 (s.fbAt 14) (s.fbAt 15) (s.fbAt 16) (s.fbAt 17), tseq := s.fbAt 18,
      dlen := (s.fbAt 19).setWidth 16, doff := 20#16 } := by
  simp [State.extract, hs, Config.layouts, hdr]

theorem extract_incomingExt :
    s.extract .incomingExt k = { k with
      group := le16 (s.fbAt 3) (s.fbAt 4), clus := le16 (s.fbAt 5) (s.fbAt 6), samode := s.fbAt 7,
      mac := le64 (s.fbAt 8) (s.fbAt 9) (s.fbAt 10) (s.fbAt 11) (s.fbAt 12) (s.fbAt 13) (s.fbAt 14) (s.fbAt 15),
      sep := s.fbAt 16, span := le16 (s.fbAt 17) (s.fbAt 18), dep := s.fbAt 19, bcast := s.fbAt 20, lqi := s.fbAt 21,
      sec := s.fbAt 22, ts := le32 (s.fbAt 23) (s.fbAt 24) (s.fbAt 25) (s.fbAt 26), tseq := s.fbAt 27,
      dlen := le16 (s.fbAt 28) (s.fbAt 29), doff := 30#16 } := by
  simp [State.extract, hs, Config.layouts, hdr]

theorem extract_dataConfirm :
    s.extract .dataConfirm k = { k with status := s.fbAt 3, ep := s.fbAt 4, tid := s.fbAt 5 } := by
  simp [State.extract, hs, Config.layouts]

end

/-! ### What a classification rests on (R223) -/

section
variable {s u : State} (hcfg : u.cfg = s.cfg) (hfb : ∀ a < 30, s.fbAt a = u.fbAt a)

theorem fbAt_eq_of_fbBytes {n : Nat} (h : s.fbBytes 0 n = u.fbBytes 0 n) : ∀ a < n, s.fbAt a = u.fbAt a := by
  simpa [State.fbBytes] using h

section
include hfb

/-- The longest fixed part of R216 to R221 is the 27 bytes of R220. -/
theorem fieldNat_congr {f : Field} (hf : f.off + f.width ≤ 27) : s.fieldNat f = u.fieldNat f := by
  unfold State.fieldNat State.fbBytes
  congr 1
  refine List.map_congr_left fun i hi => hfb _ ?_
  have := List.mem_range.mp hi
  simp only [hdr]
  omega

theorem field_congr {w : Nat} {f : Field} (hf : f.off + f.width ≤ 27) : s.field w f = u.field w f :=
  congrArg (BitVec.ofNat w) (fieldNat_congr hfb hf)

end

variable (hs : s.cfg.schema = Config.layouts)
include hcfg hs hfb

theorem minLen_congr (v : Variant) (n : Nat) : s.minLen v n = u.minLen v n := by
  have hdlen : s.fieldNat s.cfg.schema.incoming.dlen = u.fieldNat s.cfg.schema.incoming.dlen :=
    fieldNat_congr hfb (by rw [hs]; decide)
  cases v <;> simp only [State.minLen, hcfg, hdlen]

theorem inlineFlag_congr (v : Variant) (n : Nat) : s.inlineFlag v n = u.inlineFlag v n := by
  have hdlen : s.fieldNat s.cfg.schema.incomingExt.dlen = u.fieldNat s.cfg.schema.incomingExt.dlen :=
    fieldNat_congr hfb (by rw [hs]; decide)
  cases v
  case incomingExt => rw [State.inlineFlag, State.inlineFlag, hcfg, hdlen]
  all_goals rfl

theorem kflags_congr (v : Variant) (n : Nat) : s.kflags v n = u.kflags v n := by
  rw [State.kflags, State.kflags, State.truncFlag, State.truncFlag, minLen_congr hcfg hfb hs,
    inlineFlag_congr hcfg hfb hs]

theorem extract_congr (v : Variant) (k : ClassOut) : s.extract v k = u.extract v k := by
  cases v <;> simp (disch := decide) only [State.extract, hcfg, hs, Config.layouts, field_congr hfb]

/-- The registers a classification leaves rest on the header, the bytes of the fixed parts, `EXP` and `EXPV`. -/
theorem classifyAs_k_congr (hexp : s.exp = u.exp) (hexpv : s.expv = u.expv) (hk : s.k = u.k) (v : Variant) (len : Byte)
    (id : Word16) : (s.classifyAs v len id).k = (u.classifyAs v len id).k := by
  have hsel : s.selectVariant v len id = u.selectVariant v len id := by
    simp only [State.selectVariant, hexp, hexpv]
  simp only [classifyAs_k, hsel, State.classCommon, hk, kflags_congr hcfg hfb hs, extract_congr hcfg hfb hs]

end

/-- `CLSFY` leaves the registers of one classification of the frame in `FB` (R210, R211). -/
theorem exec_clsfy_k {s t : State} (hp : s.ph = .idle) (h : exec .clsfy s = .next t) :
    t.k = (s.classifyAs (variantOfId s.cfg.cid s.frameCid) (s.fbAt 0) s.frameCid).k := by
  obtain ⟨hb, hv, -⟩ := exec_hostop_cases (v := 0x04#8) rfl h
  have ht := Host.Outcome.next.inj ((exec_direct (v := 0x04#8) rfl rfl hb hp hv).symm.trans h)
  rw [← ht, directStep_clsfy rfl]
  rfl

/-- Settles O50: the two runs classify with the same header, and each register rests on bytes they share. -/
theorem classifyIsPure : Obligations.ClassifyIsPure := by
  rintro s u t v ⟨-, hps, -, -⟩ ⟨-, hpu, -, -⟩ hs hcfg hbytes hexp hexpv hk ht hv
  have hfb := fbAt_eq_of_fbBytes hbytes
  have hid : s.frameCid = u.frameCid := by
    rw [State.frameCid, State.frameCid, hfb 1 (by decide), hfb 2 (by decide)]
  rw [exec_clsfy_k hps ht, exec_clsfy_k hpu hv, hcfg, hid, hfb 0 (by decide)]
  exact classifyAs_k_congr hcfg hfb hs hexp hexpv hk _ _ _

/-! ### The notification rows in `CLSFY` (R210, R216 to R221) -/

/-- A nonempty frame of another id than the expected one is classified by its own id (R212). -/
theorem receive_own {s : State} {v : Variant} {len : Byte} {id : Word16} {flags : Byte} (hb : s.busy = true)
    (hd : s.ds = .dIdle) (hl : len ≠ 0#8) (hx : ¬ (s.expv = true ∧ s.exp = id)) (hk : s.kflags v len.toNat = flags) :
    s.receive v len id = { s with
      k := s.extract v { s.k with kind := v.code, kflags := flags, cid := id, len := len },
      tr := s.tr ++ [.demux v.code id], res := 0x00#8, busy := false, done := true } := by
  rw [receive_clsfy v len id hb hd, selectVariant_own v hl hx, State.classCommon, hk]

/-- Settles O53: a nonempty frame holds all of the one-byte layout, so it is never truncated. -/
theorem stateChangeFrame : Obligations.StateChangeFrame := by
  intro s len hb hd hs hl hx
  have hlen : ¬ len.toNat < 1 := fun h => hl (BitVec.eq_of_toNat_eq (by simpa using h))
  have hk : s.kflags .stateChange len.toNat = 0x00#8 := by
    rw [kflags_of_ne_ext (by decide), State.minLen, hs]
    exact if_neg hlen
  have h := receive_own hb hd hl hx hk
  rw [extract_stateChange hs] at h
  exact congrArg Host.Outcome.next h

/-- Settles O54: `TRUNC` compares with the fixed part of 13 bytes, and the fields are the layout's. -/
theorem announceFrame : Obligations.AnnounceFrame := by
  intro s len hb hd hs hl hx
  have h := receive_own hb hd hl hx (v := .announce) (kflags_of_ne_ext (by decide))
  rw [extract_announce hs, State.minLen, hs] at h
  exact ⟨_, congrArg Host.Outcome.next h, rfl, fun _ => rfl, fun _ => rfl, fun _ => rfl, fun _ => rfl⟩

/-- Settles O55: as for the announcement, with the fields of its own layout. -/
theorem deviceLeaveFrame : Obligations.DeviceLeaveFrame := by
  intro s len hb hd hs hl hx
  have h := receive_own hb hd hl hx (v := .deviceLeave) (kflags_of_ne_ext (by decide))
  rw [extract_deviceLeave hs, State.minLen, hs] at h
  exact ⟨_, congrArg Host.Outcome.next h, rfl, fun _ => rfl, fun _ => rfl, fun _ => rfl, fun _ => rfl, fun _ => rfl⟩

/-- Settles O56: the length byte of the data is zero-extended into `K_DLEN`. -/
theorem incomingMessageFrame : Obligations.IncomingMessageFrame := by
  intro s len hb hd hs hl hx
  have h := receive_own hb hd hl hx (v := .incoming) (kflags_of_ne_ext (by decide))
  simp only [extract_incoming hs, lt_minLen_incoming hs] at h
  have hdlen : ((s.fbAt 19).setWidth 16).toNat = (s.fbAt 19).toNat := BitVec.toNat_setWidth_of_le (by decide)
  exact ⟨_, congrArg Host.Outcome.next h, rfl, fun _ => rfl, fun _ => rfl, fun _ => rfl, fun _ => rfl, fun _ => rfl,
    fun _ => rfl, fun _ => rfl, fun _ => rfl, fun _ => rfl, fun _ => rfl, fun _ => hdlen⟩

/-- Settles O57: the two flags exclude each other, and the fields are the layout's. -/
theorem incomingExtendedFrame : Obligations.IncomingExtendedFrame := by
  intro s len hb hd hs hl hx
  have h := receive_own hb hd hl hx (kflags_incomingExt hs len.toNat)
  rw [extract_incomingExt hs] at h
  exact ⟨_, congrArg Host.Outcome.next h, rfl, fun _ => rfl, fun _ => rfl, fun _ => rfl, fun _ => rfl, fun _ => rfl,
    fun _ => rfl, fun _ => rfl, fun _ => rfl, fun _ => rfl, fun _ => rfl, fun _ => rfl, fun _ => rfl, fun _ => rfl⟩

/-- Settles O58: a nonempty frame has its status, and `TRUNC` compares with 3 bytes. -/
theorem dataConfirmFrame : Obligations.DataConfirmFrame := by
  intro s len hb hd hs hl hx
  have h := receive_own hb hd hl hx (v := .dataConfirm) (kflags_of_ne_ext (by decide))
  rw [extract_dataConfirm hs, State.minLen, hs] at h
  exact ⟨_, congrArg Host.Outcome.next h, rfl, rfl, fun _ => rfl, fun _ => rfl⟩

end Sys2Proof.Machine
end

section
/-! SUPPORT. How many steps a running operation has left at most under bounded waits (R132, R262, R296), and that each
step inside an exchange counts this number down. -/
namespace Sys2Proof.Machine

/-! ### How many steps are left -/

/-- One exchange with both waits at their bounds (R132, R134). -/
def State.exchangeTicks (s : State) : Nat := Bound.samples s.cfg.tCs 0 + Bound.samples s.cfg.tSrsp 0 + 9

/-- What is left of an exchange, up to the step that leaves `COMPLETE` or `ERROR` (R133). -/
def State.phaseTicks (s : State) : Nat :=
  match s.ph with
  | .idle => s.exchangeTicks
  | .selectAsserted => Bound.samples s.cfg.tCs 0 + Bound.samples s.cfg.tSrsp 0 + 8
  | .awaitingReady => s.spin + Bound.samples s.cfg.tSrsp 0 + 7
  | .transferring => Bound.samples s.cfg.tSrsp 0 + 6
  | .awaitingReadyRelease => s.spin + 5
  | .rxHeader => 4
  | .rxPayload => 3
  | .complete => 2
  | .error => 1

/-- One pass of a loop, with its exchange: a chunk (R191) or an iteration of a wait (R166). -/
def State.passTicks (s : State) : Nat := s.exchangeTicks + 3

/-- The frames a fragmented transfer builds behind the present one: each good chunk takes `XOFF` on (R191). -/
def State.framesLeft (s : State) : Nat :=
  if s.cmd = 0x12#8 ∧ s.begun = false then s.a.dlen.toNat + 1 else s.a.dlen.toNat - s.xoff.toNat

/-- A whole notification wait (R167). -/
def State.waitTicks (s : State) : Nat := s.passTicks * s.iterations s.a.tmo

/-- What is left behind a good status: the chunks to come, then a wait (R190, R196). -/
def State.tailTicks (s : State) : Nat := s.passTicks * s.framesLeft + s.waitTicks

/-- The iterations of a wait behind the present one (R166). -/
def State.iterTicks (s : State) : Nat := s.passTicks * (s.iter - 1)

/-- How many steps a running operation takes at most. -/
def State.ticksLeft (s : State) : Nat :=
  match s.ds with
  | .dIdle => 1
  | .dValidate => s.passTicks * (s.a.dlen.toNat + 2) + s.waitTicks
  | .dBuild => s.tailTicks + s.exchangeTicks + 2
  | .dExchange => s.tailTicks + s.phaseTicks + 1
  | .dStatus => s.tailTicks + 1
  | .dChunk => s.tailTicks + s.passTicks
  | .dWaitSample => s.iterTicks + s.passTicks
  | .dWaitPoll => s.iterTicks + s.phaseTicks + 2
  | .dWaitClassify => s.iterTicks + 2
  | .dWaitDelay => s.iterTicks + 1
  | .dDone => 1

/-- The operation has ended, or it runs and fewer than `n` steps are left. -/
inductive State.EndsBy (t : State) (n : Nat) : Prop
  | ended (hb : t.busy = false) (hd : t.done = true)
  | within (hb : t.busy = true) (h : t.ticksLeft < n)

theorem endsBy_endOp (s : State) (v : Byte) (n : Nat) : (s.endOp v).EndsBy n := .ended rfl rfl

theorem endsBy_failWith (s : State) (k : ResultKind) (n : Nat) : (s.failWith k).EndsBy n := .ended rfl rfl

/-! ### A step inside an exchange (R133) -/

/-- The two loops of the dispatcher stand still. -/
structure SameLoop (s t : State) : Prop where
  begun : t.begun = s.begun
  xoff : t.xoff = s.xoff
  iter : t.iter = s.iter

theorem SameLoop.trans {s t u : State} (h : SameLoop s t) (g : SameLoop t u) : SameLoop s u :=
  ⟨g.begun.trans h.begun, g.xoff.trans h.xoff, g.iter.trans h.iter⟩

theorem sameLoop_transfer (s : State) (off n : Nat) : SameLoop s (s.transfer off n) := by
  unfold State.transfer
  split <;> exact ⟨rfl, rfl, rfl⟩

/-- What is left of the loops, where a step leaves them alone. -/
theorem loopTicks_tick {s : State} (hb : s.busy = true) (h : SameLoop s s.tick) :
    s.tick.tailTicks = s.tailTicks ∧ s.tick.iterTicks = s.iterTicks ∧ s.tick.exchangeTicks = s.exchangeTicks := by
  have ha := (kept_tick s).a
  have hcfg := (kept_tick s).cfg
  have hx : s.tick.exchangeTicks = s.exchangeTicks := by rw [State.exchangeTicks, hcfg]; rfl
  have hpass : s.tick.passTicks = s.passTicks := by rw [State.passTicks, hx]; rfl
  have hframes : s.tick.framesLeft = s.framesLeft := by rw [State.framesLeft, tick_cmd hb, h.begun, h.xoff, ha]; rfl
  have hwait : s.tick.waitTicks = s.waitTicks := by rw [State.waitTicks, State.iterations, hpass, ha, hcfg]; rfl
  exact ⟨by rw [State.tailTicks, hpass, hframes, hwait]; rfl, by rw [State.iterTicks, hpass, h.iter]; rfl, hx⟩

/-- A step of an exchange: the loops stand still, the exchange counts down. -/
structure Counts (s t : State) : Prop where
  loop : SameLoop s t
  ticks : t.phaseTicks < s.phaseTicks

theorem counts_exchangeError {s : State} (k : ResultKind) (h : 1 < s.phaseTicks) : Counts s (s.exchangeError k) :=
  ⟨⟨rfl, rfl, rfl⟩, h⟩

theorem counts_exchangeStep {s : State} (hp : s.ph = .idle) : Counts s s.exchangeStep := by
  have hs : s.phaseTicks = s.exchangeTicks := by rw [State.phaseTicks, hp]
  have hlt : Bound.samples s.cfg.tCs 0 + Bound.samples s.cfg.tSrsp 0 + 8 < s.phaseTicks := by
    rw [hs, State.exchangeTicks]; omega
  unfold State.exchangeStep State.requestStart
  split
  · exact ⟨⟨rfl, rfl, rfl⟩, hlt⟩
  · split
    · exact counts_exchangeError _ (by omega)
    · exact ⟨⟨rfl, rfl, rfl⟩, hlt⟩

/-- The step that opens a bounded wait sets `SPIN` to the bound (R132). -/
theorem counts_loadSpin {s u : State} {b : Bound} (hb : b ≠ .inf) (hu : SameLoop s u)
    (h : State.phaseTicks { u with spin := Bound.samples b 0 } < s.phaseTicks) : Counts s (u.loadSpin b) := by
  cases b with
  | inf => exact absurd rfl hb
  | fin n => exact ⟨hu.trans ⟨rfl, rfl, rfl⟩, h⟩

/-- One sample of a bounded wait: the awaited level, the failure, or `SPIN` counted down (R132). -/
theorem counts_awaitStep {s : State} {level : Bool} {b : Bound} {next : Phase} {k : ResultKind} (hb : b ≠ .inf)
    (hnext : (s.sampled.toPh next).phaseTicks < s.phaseTicks)
    (hspin : ∀ n, n < s.spin → State.phaseTicks { s.sampled with spin := n } < s.phaseTicks)
    (herr : 1 < s.phaseTicks) : Counts s (s.awaitStep level b next k) := by
  unfold State.awaitStep
  split
  · exact ⟨⟨rfl, rfl, rfl⟩, hnext⟩
  · split
    · exact absurd rfl hb
    · split
      · exact ⟨⟨rfl, rfl, rfl⟩, herr⟩
      · exact ⟨⟨rfl, rfl, rfl⟩, hspin _ (by omega)⟩

theorem counts_tick {s : State} (hB : Cfg.Bounded s.cfg) (hi : s.ph ≠ .idle) (hc : s.ph ≠ .complete)
    (he : s.ph ≠ .error) : Counts s s.tick := by
  cases hp : s.ph with
  | idle => exact absurd hp hi
  | selectAsserted =>
    have ht : s.tick = (s.toPh .awaitingReady).loadSpin s.cfg.tCs := by simp only [State.tick, hp, State.selectStep]
    rw [ht]
    refine counts_loadSpin hB.1 ⟨rfl, rfl, rfl⟩ ?_
    simp only [State.phaseTicks, hp, toPh_ph, toPh_cfg]
    omega
  | awaitingReady =>
    have ht : s.tick = s.readyStep := by simp only [State.tick, hp]
    rw [ht]
    refine counts_awaitStep hB.1 ?_ (fun n hn => ?_) ?_ <;>
      simp only [State.phaseTicks, hp, toPh_ph, toPh_cfg, sampled_ph, sampled_cfg] <;> omega
  | transferring =>
    have ht : s.tick = s.sendStep := by simp only [State.tick, hp]
    rw [ht]
    refine counts_loadSpin hB.2 ((sameLoop_transfer s _ _).trans ⟨rfl, rfl, rfl⟩) ?_
    simp only [State.phaseTicks, hp, toPh_ph]
    omega
  | awaitingReadyRelease =>
    have ht : s.tick = s.releaseStep := by simp only [State.tick, hp]
    rw [ht]
    refine counts_awaitStep hB.2 ?_ (fun n hn => ?_) ?_ <;>
      simp only [State.phaseTicks, hp, toPh_ph, sampled_ph] <;> omega
  | rxHeader =>
    have ht : s.tick = (s.transfer 0 hdr).headerReceived := by simp only [State.tick, hp, State.headerStep]
    have hloop := sameLoop_transfer s 0 hdr
    have hs : s.phaseTicks = 4 := by rw [State.phaseTicks, hp]
    rw [ht]
    obtain h | ⟨-, h⟩ | ⟨-, h⟩ := headerReceived_cases (s.transfer 0 hdr) <;> rw [h]
    · exact ⟨hloop.trans ⟨rfl, rfl, rfl⟩, hs ▸ (by decide : 1 < 4)⟩
    · exact ⟨hloop.trans ⟨rfl, rfl, rfl⟩, hs ▸ (by decide : 2 < 4)⟩
    · exact ⟨hloop.trans ⟨rfl, rfl, rfl⟩, hs ▸ (by decide : 3 < 4)⟩
  | rxPayload =>
    have ht : s.tick = s.payloadStep := by simp only [State.tick, hp]
    have hs : s.phaseTicks = 3 := by rw [State.phaseTicks, hp]
    rw [ht]
    exact ⟨(sameLoop_transfer s _ _).trans ⟨rfl, rfl, rfl⟩, hs ▸ (by decide : 2 < 3)⟩
  | complete => exact absurd hp hc
  | error => exact absurd hp he

/-- A step of an exchange counts down what is left of the operation. -/
theorem Counts.endsBy {s : State} (hb : s.busy = true) (hx : s.ds = .dExchange ∨ s.ds = .dWaitPoll)
    (h : Counts s s.tick) (hs : Shifts s s.tick) : s.tick.EndsBy s.ticksLeft := by
  obtain ⟨htail, hiter, -⟩ := loopTicks_tick hb h.loop
  have hlt := h.ticks
  refine .within (hs.busy.trans hb) ?_
  obtain hd | hd := hx <;> simp only [State.ticksLeft, hs.ds, hd, htail, hiter] <;> omega

end Sys2Proof.Machine
end

section
/-! SUPPORT. Every operation ends under bounded waits (R262, R296): each step of the dispatcher and of the whole block
counts down, and every operation starts inside its allowance. -/
namespace Sys2Proof.Machine

/-! ### The two loops of the dispatcher (R166, R191) -/

section
variable {s : State} {n : Nat}

theorem endsBy_startWait (hb : s.busy = true) (id : Word16) (h : s.waitTicks < n) :
    (s.startWait id s.a.tmo).EndsBy n := by
  unfold State.startWait
  split
  · exact endsBy_failWith _ _ _
  · next hz =>
    refine .within hb (Nat.lt_of_le_of_lt (Nat.le_of_eq ?_) h)
    show s.passTicks * (s.iterations s.a.tmo - 1) + s.passTicks = s.passTicks * s.iterations s.a.tmo
    rw [← Nat.mul_succ, Nat.succ_eq_add_one, Nat.sub_add_cancel (Nat.pos_of_ne_zero hz)]

theorem endsBy_confirmWait (hb : s.busy = true) (h : s.waitTicks < n) : s.confirmWait.EndsBy n := by
  unfold State.confirmWait
  split
  · exact endsBy_startWait hb _ h
  · exact endsBy_endOp _ _ _

theorem endsBy_sreqWait (hb : s.busy = true) (h : s.waitTicks < n) : s.sreqWait.EndsBy n := by
  unfold State.sreqWait
  split
  · exact endsBy_startWait hb _ h
  · exact endsBy_endOp _ _ _

theorem endsBy_withStatus {ok : State} (len soff : Nat) (h : ok.EndsBy n) : (s.withStatus len soff ok).EndsBy n := by
  unfold State.withStatus
  split
  · exact endsBy_failWith _ _ _
  · split
    · exact h
    · exact endsBy_endOp _ _ _

theorem endsBy_matched (s : State) (len n : Nat) : (s.matched len).EndsBy n := by
  unfold State.matched
  split
  · exact endsBy_withStatus _ _ (endsBy_endOp _ _ _)
  · exact endsBy_withStatus _ _ (endsBy_endOp _ _ _)
  · exact endsBy_endOp _ _ _

theorem endsBy_startBuild (hb : s.busy = true) (len : Nat) (id : Word16) (h : s.tailTicks + s.exchangeTicks + 2 < n) :
    (s.startBuild len id).EndsBy n := .within hb h

theorem waitTicks_le_tailTicks (s : State) : s.waitTicks ≤ s.tailTicks := Nat.le_add_left _ _

/-- A chunk that is not empty takes `XOFF` on, inside `A_DLEN` (R191). -/
theorem nextChunk_xoff (h : s.chunkLen ≠ 0) :
    s.a.dlen.toNat - s.nextChunk.xoff.toNat + 1 ≤ s.a.dlen.toNat - s.xoff.toNat := by
  have hle : s.chunkLen ≤ s.a.dlen.toNat - s.xoff.toNat := Nat.min_le_right _ _
  have hlt := s.a.dlen.isLt
  have hx : s.nextChunk.xoff.toNat = s.xoff.toNat + s.chunkLen := by
    rw [State.nextChunk, BitVec.toNat_ofNat, Nat.mod_eq_of_lt (by omega)]
  omega

/-- Going on to the next chunk: one frame fewer is left. -/
theorem endsBy_chunk {t : State} (hb : t.busy = true) (hd : t.ds = .dChunk) (hpass : t.passTicks = s.passTicks)
    (hwait : t.waitTicks = s.waitTicks) (h : t.framesLeft + 1 ≤ s.framesLeft) : t.EndsBy (s.tailTicks + 1) := by
  have hmul := Nat.mul_le_mul_left s.passTicks h
  rw [Nat.mul_add_one] at hmul
  refine .within hb ?_
  simp only [State.ticksLeft, hd, State.tailTicks, hpass, hwait]
  omega

theorem endsBy_nextChunk (hb : s.busy = true) (hc : ¬ (s.cmd = 0x12#8 ∧ s.begun = false)) (h : s.chunkLen ≠ 0) :
    s.nextChunk.EndsBy (s.tailTicks + 1) := by
  refine endsBy_chunk hb rfl rfl rfl ?_
  have hx := nextChunk_xoff h
  simp only [State.framesLeft, if_neg hc]
  rwa [if_neg (show ¬ (s.nextChunk.cmd = 0x12#8 ∧ s.nextChunk.begun = false) from hc)]

theorem endsBy_afsendxNext (hb : s.busy = true) (hc : s.cmd = 0x12#8) : s.afsendxNext.EndsBy (s.tailTicks + 1) := by
  unfold State.afsendxNext
  split
  · next hbegun =>
    refine endsBy_chunk hb rfl rfl rfl ?_
    simp [State.framesLeft, hc, hbegun]
  · next hbegun =>
    split
    · exact endsBy_confirmWait hb (Nat.lt_succ_of_le (waitTicks_le_tailTicks s))
    · next h => exact endsBy_nextChunk hb (fun h' => hbegun h'.2) h

theorem endsBy_afretrxNext (hb : s.busy = true) (hc : s.cmd = 0x13#8) (len : Nat) :
    (s.afretrxNext len).EndsBy (s.tailTicks + 1) := by
  unfold State.afretrxNext
  split
  · exact endsBy_failWith _ _ _
  · split
    · exact endsBy_endOp _ _ _
    · next h =>
      have hcmd : s.storeRetrieved.cmd ≠ 0x12#8 := by rw [State.storeRetrieved, xmPut_cmd, hc]; decide
      exact endsBy_nextChunk (s := s.storeRetrieved) hb (fun h' => hcmd h'.1) h

theorem endsBy_respond (hb : s.busy = true) (len : Nat) : (s.respond len).EndsBy (s.tailTicks + 1) := by
  have hwait := Nat.lt_succ_of_le (waitTicks_le_tailTicks s)
  refine endsBy_withStatus _ _ ?_
  unfold State.afterStatus
  split
  · exact endsBy_sreqWait hb hwait
  · exact endsBy_confirmWait hb hwait
  · next h => exact endsBy_afsendxNext hb (cmd_of_running h rfl)
  · next h => exact endsBy_afretrxNext hb (cmd_of_running h rfl) len
  · exact endsBy_endOp _ _ _

/-- Behind an exchange (R160, R166). -/
theorem endsBy_afterExchange (hb : s.busy = true) (hx : s.ds = .dExchange ∨ s.ds = .dWaitPoll)
    (hn : s.ds = .dExchange → s.tailTicks + 1 < n) (hm : s.ds = .dWaitPoll → s.iterTicks + 2 < n) :
    s.afterExchange.EndsBy n := by
  unfold State.afterExchange
  split
  · next hd => exact .within hb (hm hd)
  · next hd =>
    have hlt := hn (hx.resolve_right hd)
    have status : (s.toDs .dStatus).EndsBy n := .within hb hlt
    split
    · split
      · exact status
      · exact endsBy_sreqWait hb (by have := waitTicks_le_tailTicks s; omega)
    · exact status
    · exact status
    · exact status
    · exact endsBy_endOp _ _ _

theorem framesLeft_le (s : State) : s.framesLeft ≤ s.a.dlen.toNat + 1 := by
  unfold State.framesLeft
  split <;> omega

theorem tailTicks_le (s : State) : s.tailTicks + s.passTicks ≤ s.passTicks * (s.a.dlen.toNat + 2) + s.waitTicks := by
  have hmul := Nat.mul_le_mul_left s.passTicks (framesLeft_le s)
  rw [State.tailTicks, Nat.mul_add_one s.passTicks (s.a.dlen.toNat + 1)]
  omega

theorem endsBy_validateStep (hb : s.busy = true) :
    s.validateStep.EndsBy (s.passTicks * (s.a.dlen.toNat + 2) + s.waitTicks) := by
  have build {t : State} (ht : t.busy = true) (hp : t.passTicks = s.passTicks) (hw : t.waitTicks = s.waitTicks)
      (ha : t.a = s.a) (len : Nat) (id : Word16) :
      (t.startBuild len id).EndsBy (s.passTicks * (s.a.dlen.toNat + 2) + s.waitTicks) := by
    have hle := tailTicks_le t
    rw [ha, hw, hp] at hle
    refine endsBy_startBuild ht len id ?_
    have : t.exchangeTicks + 3 = s.passTicks := hp
    omega
  unfold State.validateStep
  split
  · split
    · exact endsBy_failWith _ _ _
    · exact build hb rfl rfl rfl _ _
  · refine endsBy_startWait hb _ (Nat.lt_add_of_pos_left ?_)
    exact Nat.mul_pos (Nat.succ_pos _) (Nat.succ_pos _)
  · split
    · exact endsBy_failWith _ _ _
    · exact build hb rfl rfl rfl _ _
  · split
    · exact endsBy_failWith _ _ _
    · exact build (t := { s with begun := false }) hb rfl rfl rfl _ _
  · split
    · exact endsBy_failWith _ _ _
    · exact build (t := { s with xoff := 0 }) hb rfl rfl rfl _ _
  · exact endsBy_failWith _ _ _

theorem sameLoop_buildStep (s : State) : SameLoop s s.buildStep := by
  unfold State.buildStep
  split
  · exact ⟨rfl, rfl, rfl⟩
  · split
    · exact ⟨rfl, rfl, rfl⟩
    · rw [buildSendExt_eq]; exact ⟨rfl, rfl, rfl⟩
    · rw [State.buildStore, putFields_eq]; exact ⟨rfl, rfl, rfl⟩
    · rw [State.buildRetrieve, putFields_eq]; exact ⟨rfl, rfl, rfl⟩
    · exact ⟨rfl, rfl, rfl⟩

theorem endsBy_sampleStep (hb : s.busy = true) (hp : s.ph = .idle) :
    s.sampleStep.EndsBy (s.iterTicks + s.passTicks) := by
  unfold State.sampleStep
  split
  · refine .within hb ?_
    show s.iterTicks + s.phaseTicks + 2 < _
    simp only [State.phaseTicks, hp, State.passTicks]
    omega
  · refine .within hb ?_
    show s.iterTicks + 1 < s.iterTicks + (s.exchangeTicks + 3)
    omega

theorem endsBy_delayStep (hb : s.busy = true) : s.delayStep.EndsBy (s.iterTicks + 1) := by
  unfold State.delayStep
  split
  · exact endsBy_failWith _ _ _
  · next h =>
    refine .within hb (Nat.lt_succ_of_le (Nat.le_of_eq ?_))
    show s.passTicks * (s.iter - 1 - 1) + s.passTicks = s.passTicks * (s.iter - 1)
    rw [← Nat.mul_succ, Nat.succ_eq_add_one, Nat.sub_add_cancel (Nat.pos_of_ne_zero h)]

theorem endsBy_chunkStep (hb : s.busy = true) : s.chunkStep.EndsBy (s.tailTicks + s.passTicks) := by
  have hlt : s.tailTicks + s.exchangeTicks + 2 < s.tailTicks + s.passTicks := by rw [State.passTicks]; omega
  unfold State.chunkStep
  split
  · exact endsBy_startBuild hb _ _ hlt
  · exact endsBy_startBuild hb _ _ hlt
  · exact endsBy_failWith _ _ _

theorem endsBy_classifyStep (hb : s.busy = true) (hm : s.ds = .dWaitClassify → s.iterTicks + 1 < n) :
    s.classifyStep.EndsBy n := by
  unfold State.classifyStep State.interpret State.afterClassify
  split
  · next hd =>
    split
    · exact endsBy_matched _ _ _
    · exact .within hb (hm hd)
  · rw [if_pos (show (s.classifyAs _ _ _).busy = true from hb)]
    exact endsBy_endOp _ _ _

theorem endsBy_directStep (hb : s.busy = true) (hd : s.ds = .dIdle) : s.directStep.EndsBy n := by
  unfold State.directStep
  split
  · exact endsBy_endOp _ _ _
  · exact endsBy_classifyStep hb (by simp [hd])
  · exact endsBy_failWith _ _ _

end

/-! ### Every step counts down (R133, R174) -/

/-- A step between exchanges. -/
theorem endsBy_tick_idle {s : State} (hb : s.busy = true) (hp : s.ph = .idle) : s.tick.EndsBy s.ticksLeft := by
  have ht : s.tick = s.idlePhaseStep := by simp only [State.tick, hp]
  have exchange (hd : s.ds = .dExchange ∨ s.ds = .dWaitPoll) : s.tick.EndsBy s.ticksLeft := by
    have hx : s.tick = s.exchangeStep := by rw [ht]; obtain hd | hd := hd <;> simp only [State.idlePhaseStep, hd]
    exact Counts.endsBy hb hd (hx ▸ counts_exchangeStep hp) (hx ▸ shifts_exchangeStep s)
  cases hd : s.ds
  case dExchange => exact exchange (.inl hd)
  case dWaitPoll => exact exchange (.inr hd)
  case dBuild =>
    have hx : s.tick = s.buildStep := by rw [ht]; simp only [State.idlePhaseStep, hd]
    have hgoes := buildStep_goes s
    obtain ⟨htail, -, hticks⟩ := loopTicks_tick hb (hx ▸ sameLoop_buildStep s)
    rw [← hx] at hgoes
    have hph : s.tick.phaseTicks = s.exchangeTicks := by rw [State.phaseTicks, hgoes.ph.trans hp]; exact hticks
    refine .within (hgoes.busy.trans hb) ?_
    simp only [State.ticksLeft, hgoes.ds, hd, htail, hph]
    omega
  all_goals simp only [ht, State.idlePhaseStep, State.ticksLeft, hd]
  case dIdle => exact endsBy_directStep hb hd
  case dValidate => exact endsBy_validateStep hb
  case dStatus => exact endsBy_respond hb _
  case dWaitSample => exact endsBy_sampleStep hb hp
  case dWaitClassify => exact endsBy_classifyStep hb fun _ => Nat.lt_succ_self _
  case dWaitDelay => exact endsBy_delayStep hb
  case dChunk => exact endsBy_chunkStep hb
  case dDone => exact endsBy_endOp _ _ _

theorem endsBy_tick {s : State} (hb : s.busy = true) (hc : Control s) (hB : Cfg.Bounded s.cfg) :
    s.tick.EndsBy s.ticksLeft := by
  by_cases hi : s.ph = .idle
  · exact endsBy_tick_idle hb hi
  have hx := hc.exchange hi
  by_cases he : s.ph = .error
  · rw [tick_of_error he]; exact endsBy_failWith _ _ _
  by_cases hp : s.ph = .complete
  · have ht : s.tick = s.completeStep := by simp only [State.tick, hp]
    have hticks : s.phaseTicks = 2 := by rw [State.phaseTicks, hp]
    obtain h | ⟨-, h⟩ := completeStep_cases s
    · have ht' := ht.trans h
      exact Counts.endsBy hb hx (ht' ▸ counts_exchangeError _ (by omega)) (ht' ▸ shifts_exchangeError s _)
    · have htail : (s.toPh .idle).tailTicks = s.tailTicks := rfl
      have hiter : (s.toPh .idle).iterTicks = s.iterTicks := rfl
      rw [ht, h]
      refine endsBy_afterExchange (s := s.toPh .idle) hb hx (fun hd => ?_) (fun hd => ?_) <;>
        rw [toPh_ds] at hd <;> simp only [State.ticksLeft, hd, hticks] <;> omega
  · cases tick_cases hb with
    | exchange _ hs => exact Counts.endsBy hb hx (counts_tick hB hi hp he) hs
    | between h => exact absurd h hi
    | ended h => exact (h.elim hp he).elim

/-- The one induction over a run that counts down. -/
theorem runToDone_ends {n : Nat} {s : State} (hc : Control s) (hB : Cfg.Bounded s.cfg) (h : s.EndsBy n) :
    (runToDone n s).busy = false ∧ (runToDone n s).done = true := by
  induction n generalizing s with
  | zero =>
    cases h with
    | ended hb hd => exact ⟨hb, hd⟩
    | within _ h => exact absurd h (Nat.not_lt_zero _)
  | succ n ih =>
    cases h with
    | ended hb hd => rw [runToDone_of_not_busy hb]; exact ⟨hb, hd⟩
    | within hb h =>
      rw [runToDone_succ hb]
      refine ih (control_tick hb hc) ((kept_tick s).cfg ▸ hB) ?_
      cases endsBy_tick hb hc hB with
      | ended hb hd => exact .ended hb hd
      | within hb' h' => exact .within hb' (by omega)

/-! ### The allowance (R115, entry 5) -/

/-- A bounded wait takes no more samples for the answers that are listed. -/
theorem samples_eq {b : Bound} (h : b ≠ .inf) (m n : Nat) : Bound.samples b m = Bound.samples b n := by
  cases b with
  | inf => exact absurd rfl h
  | fin _ => rfl

/-- What the first states of the operations (R174) have left: the frames and the iterations of a whole operation. -/
theorem ticksLeft_le {s : State} (hp : s.ph = .idle) (hd : s.ds = .dExchange ∨ s.ds = .dValidate ∨ s.ds = .dIdle) :
    s.ticksLeft ≤ s.passTicks * (s.a.dlen.toNat + 2 + s.iterations s.a.tmo) := by
  have htail := tailTicks_le s
  have hpass : s.passTicks = s.exchangeTicks + 3 := rfl
  have hphase : s.phaseTicks = s.exchangeTicks := by rw [State.phaseTicks, hp]
  rw [Nat.mul_add, ← State.waitTicks]
  obtain hd | hd | hd := hd <;> simp only [State.ticksLeft, hd] <;> omega

theorem passTicks_le {s : State} (hB : Cfg.Bounded s.cfg) : s.passTicks ≤ s.passCost := by
  rw [State.passCost, samples_eq hB.1 _ 0, samples_eq hB.2 _ 0, State.passTicks, State.exchangeTicks]
  omega

/-- Every operation starts inside its allowance. -/
theorem endsBy_beginOp {s : State} (v : Byte) (hp : s.ph = .idle) (hv : s.cfg.valid = true) (hB : Cfg.Bounded s.cfg) :
    (s.beginOp v).EndsBy s.allowance := by
  have hiter := iterations_le hv s.a.tmo
  have hpos : 0 < s.passCost := Nat.succ_pos _
  refine .within rfl ?_
  calc (s.beginOp v).ticksLeft
    _ ≤ s.passTicks * (s.a.dlen.toNat + 2 + s.iterations s.a.tmo) :=
      ticksLeft_le (s := s.beginOp v) hp (startState_cases v)
    _ < s.passCost * (s.a.dlen.toNat + s.a.tmo.toNat * 1000 + 8) :=
      Nat.mul_lt_mul_of_le_of_lt (passTicks_le hB) (by omega) hpos
    _ = s.allowance := Nat.mul_comm _ _

/-- Settles O16: the steps left count down from less than the allowance, and every step keeps the control registers. -/
theorem operationsComplete : Obligations.OperationsComplete := by
  intro i s hf hs hB
  obtain ⟨⟨hb, hp, -, hsel⟩, hv, hup⟩ := hs
  obtain ⟨v, hi⟩ := exists_decodeOp hf
  have hfault : s.startFault (runsExchange v) = none := by simp [State.startFault, hb, hv, hup]
  have hc : Control (s.beginOp v) := control_beginOp v hp hsel
  obtain ⟨hbusy, hdone⟩ := runToDone_ends hc hB (endsBy_beginOp v hp hv hB)
  have hend : Control (runToDone s.allowance (s.beginOp v)) := runToDone_induction (fun _ => control_tick) _ hc
  obtain ⟨hph, hds⟩ := hend.rest hbusy
  have hexec := (exec_of_decodeOp s hi).trans (operate_next hfault (Nat.le_refl _) rfl hbusy)
  refine ⟨_, hexec, ⟨hbusy, hph, hds, ?_⟩, hdone⟩
  rw [hend.sel, hph]
  rfl

end Sys2Proof.Machine
end

section
/-! SUPPORT. The Host actions with no defined behaviour (R270). -/
namespace Sys2Proof.Machine

/-! ### The `CMD` write (R270 a, d, e) -/

section
variable {s : State} {f : Fault} {v : Byte} {i : Instr} {exchanges : Bool}

theorem operate_fault (h : s.startFault exchanges = some f) : operate v exchanges s = .fault f := by
  simp only [operate, h]

theorem startFault_busy (hb : s.busy = true) : s.startFault exchanges = some .cmdWhileBusy := by
  simp [State.startFault, hb]

theorem startFault_invalid (hb : s.busy = false) (hv : s.cfg.valid = false) :
    s.startFault exchanges = some .badConfig := by simp [State.startFault, hb, hv]

theorem startFault_busDown (hb : s.busy = false) (hv : s.cfg.valid = true) (hu : s.busUp = false) :
    s.startFault exchanges = if exchanges = true then some .busNotInitialised else none := by
  simp [State.startFault, hb, hv, hu]

/-- Every mnemonic line is a `CMD` write, the reserved opcodes' too (R28, R116). -/
theorem hostOp_eq (v : Byte) (s : State) :
    ∃ exchanges, hostOp v s = operate v exchanges { s with hostWaits := true } := by
  unfold hostOp
  split
  · next h => exact ⟨_, exec_of_decodeOp _ h⟩
  · exact ⟨false, rfl⟩

theorem hostOp_busy (hb : s.busy = true) : hostOp v s = .fault .cmdWhileBusy := by
  obtain ⟨exchanges, h⟩ := hostOp_eq v s
  rw [h]
  exact operate_fault (startFault_busy hb)

theorem hostStart_busy (hb : s.busy = true) : hostStart v s = .fault .cmdWhileBusy := by
  simp only [hostStart, startFault_busy hb]

/-- Every operation but `RDYQ` and `CLSFY` runs exchanges (R145, R210). -/
theorem runsExchange_iff (h : decodeOp v = .ok i) : runsExchange v = true ↔ i ≠ .rdyq ∧ i ≠ .clsfy := by
  iterate 9
    obtain ⟨rfl, rfl⟩ | ⟨-, h⟩ := row_of_ite h
    · decide
  exact nomatch h

/-- On an uninitialised Bus an operation faults exactly if it runs exchanges (R270 d, R284 a). -/
theorem operate_busDown (hb : s.busy = false) (hv : s.cfg.valid = true) (hu : s.busUp = false) :
    operate v exchanges s = .fault .busNotInitialised ↔ exchanges = true := by
  rw [operate, startFault_busDown hb hv hu]
  cases exchanges
  · exact ⟨nofun, nofun⟩
  · exact ⟨fun _ => rfl, fun _ => rfl⟩

end

/-! ### The register port and the memories (R270 b, c) -/

section
variable {s : State} (hb : s.busy = true)
include hb

theorem hostSet_busy {reg : Nat} (v : Word64) (hr : reg ≠ 0) :
    hostMove (.set reg v) s = .fault .registerWhileBusy := by simp [hostMove, hostSet, hr, hb]

theorem hostGet_busy {reg : Nat} (h1 : reg ≠ 0x01) (h3 : reg ≠ 0x03) (h4 : reg ≠ 0x04) :
    hostMove (.get reg) s = .fault .registerWhileBusy := by simp [hostMove, hostGet, hb, readableBusy, h1, h3, h4]

theorem hostFbWrite_busy (addr : Nat) (bs : List Byte) : hostMove (.fbw addr bs) s = .fault .memoryWhileBusy := by
  simp [hostMove, hostFbWrite, hb]

theorem hostXmWrite_busy (addr : Nat) (bs : List Byte) : hostMove (.xmw addr bs) s = .fault .memoryWhileBusy := by
  simp [hostMove, hostXmWrite, hb]

theorem hostFbRead_busy (addr : Nat) : hostMove (.fbr addr) s = .fault .memoryWhileBusy := by
  simp [hostMove, hostFbRead, hb]

theorem hostXmRead_busy (addr : Nat) : hostMove (.xmr addr) s = .fault .memoryWhileBusy := by
  simp [hostMove, hostXmRead, hb]

end

/-- The reads that are never refused: `STAT`, `PH`, `DS` (R39). -/
theorem hostGet_readable (s : State) {reg : Nat} (h : readableBusy reg = true) :
    hostMove (.get reg) s = .next { s with hostRd := s.readReg reg } := by simp [hostMove, hostGet, h]

/-- Settles O11: a `CMD` write faults by `startFault`, whoever writes it; the ports look at `BUSY` first. -/
theorem hostFaults : Obligations.HostFaults := by
  refine ⟨fun s hb => ⟨fun v => ⟨hostOp_busy hb, hostStart_busy hb⟩, fun v => hostStart_busy hb,
    hostFbWrite_busy hb, hostXmWrite_busy hb, hostFbRead_busy hb, hostXmRead_busy hb, fun reg v => hostSet_busy hb v,
    fun reg => hostGet_busy hb, hostGet_readable s rfl, hostGet_readable s rfl, hostGet_readable s rfl⟩,
    fun s hb hv hu i hi => ?_, fun s hv => ⟨?_, fun hb i hi => ?_⟩⟩
  · obtain ⟨v, hd⟩ := exists_decodeOp hi
    rw [exec_of_decodeOp s hd, operate_busDown hb hv hu, runsExchange_iff hd]
  · simp only [step, guardedTurn, hv]
  · obtain ⟨v, hd⟩ := exists_decodeOp hi
    rw [exec_of_decodeOp s hd]
    exact operate_fault (startFault_invalid hb hv)

end Sys2Proof.Machine
end

section
/-! SUPPORT. The block after a reset, and after the reset input (R281, R282). -/
namespace Sys2Proof.Machine

theorem atReset_resetWith (c : Cfg) : (State.resetWith c).AtReset := by
  have hstat : (State.resetWith c).stat = 0x00#8 := by simp [State.stat, State.resetWith]
  have hctrl : (State.resetWith c).ctrl = 0x01#8 := by simp [State.ctrl, State.resetWith]
  exact ⟨rfl, rfl, rfl, rfl, rfl, rfl, rfl, hstat, rfl, hctrl, rfl, rfl, rfl, rfl, rfl, rfl, rfl, rfl⟩

/-- No field of R281's table is among those the reset input keeps. -/
theorem atReset_blockReset (s : State) : s.blockReset.AtReset := atReset_resetWith s.cfg

/-- Settles O1: the memories of the reset state list no byte, and the reset input keeps those it finds. -/
theorem resetValues : Obligations.ResetValues :=
  ⟨fun c => ⟨atReset_resetWith c, fun _ => ⟨rfl, rfl⟩⟩,
    fun s => ⟨s.blockReset, rfl, atReset_blockReset s, fun _ => ⟨rfl, rfl⟩, rfl, rfl⟩⟩

theorem control_resetWith (c : Cfg) : Control (State.resetWith c) where
  rest _ := ⟨rfl, rfl⟩
  sel := rfl
  exchange h := absurd rfl h
  done := nofun
  ds := nofun

theorem coherent_resetWith {c : Cfg} (hv : c.valid = true) : (State.resetWith c).Coherent :=
  have ⟨hfb, hxm⟩ := reset_wf c
  (coherent_iff _).mpr ⟨hv, hfb, hxm, control_resetWith c⟩

/-- Settles O2: the configuration of `State.reset` is one of the valid ones. -/
theorem resetIsCoherent : Obligations.ResetIsCoherent :=
  ⟨coherent_resetWith (by decide), fun _ => coherent_resetWith⟩

end Sys2Proof.Machine
end

section
/-! SUPPORT. A wait without a bound (R132, R296). -/
namespace Sys2Proof.Machine

/-- The step of an unbounded wait on a listed level that is not the awaited one: `SPIN` is not used. -/
theorem awaitStep_inf_miss {s : State} {level : Bool} {next : Phase} {k : ResultKind} {l : List Bool}
    (h : s.ready = (!level) :: l) :
    s.awaitStep level .inf next k = { s with ready := l, tr := s.tr ++ [.rdRdy (!level)] } := by
  have hne : ¬ (!level) = level := by cases level <;> nofun
  rw [State.awaitStep, nextReady_cons h, if_neg hne]
  exact sampled_cons h

/-- An unbounded wait takes `n` wrong samples and stands where it stood. -/
theorem run_await_inf {ph next : Phase} {k : ResultKind} {level : Bool} {g : Cfg → Bound}
    (htick : ∀ t : State, t.ph = ph → t.tick = t.awaitStep level (g t.cfg) next k) (n : Nat) {s : State}
    {l : List Bool} (hb : s.busy = true) (hph : s.ph = ph) (hg : g s.cfg = .inf)
    (hr : s.ready = List.replicate n (!level) ++ l) :
    runToDone n s = { s with ready := l, tr := s.tr ++ List.replicate n (Event.rdRdy (!level)) } := by
  induction n generalizing s with
  | zero => simp [← show s.ready = l from hr]
  | succ n ih =>
    have hr' : s.ready = (!level) :: (List.replicate n (!level) ++ l) := by rw [hr, List.replicate_succ]; rfl
    rw [runToDone_succ hb, htick s hph, hg, awaitStep_inf_miss hr',
      ih (s := { s with ready := _, tr := s.tr ++ [.rdRdy (!level)] }) hb hph hg rfl]
    simp [List.replicate_succ]

/-- Settles O17: neither wait uses `SPIN`, so no number of wrong samples ends it. -/
theorem unboundedWaitHangs : Obligations.UnboundedWaitHangs := fun n _ _ hb =>
  ⟨run_await_inf (next := .transferring) (k := .chipSelectTimeout) (level := true) (g := (·.tCs))
      (fun t h => by rw [State.tick, h]; rfl) n hb,
    run_await_inf (next := .rxHeader) (k := .srspTimeout) (level := false) (g := (·.tSrsp))
      (fun t h => by rw [State.tick, h]; rfl) n hb⟩

end Sys2Proof.Machine
end

section
/-! SUPPORT. The decoder and the encoder are inverse (R90, R92, R101, R115): the tests of one format name words that no
two rows share, and under a valid configuration no row hides another. -/
namespace Sys2Proof.Machine

/-! ### From an instruction to its row (R101) -/

theorem decode_frameTx_header (c : Cfg) (len : Byte) (id : Word16) (rest : List Byte) :
    decode c .frameTx (headerBytes len id ++ rest) = (decodeTx c len id).map (·, rest) :=
  congrArg (fun x => (decodeTx c len x).map (·, rest)) (be16_msb_lsb id)

theorem decode_frameRx_header (c : Cfg) (len : Byte) (id : Word16) (rest : List Byte) :
    decode c .frameRx (headerBytes len id ++ rest) = (decodeRx c len id).map (·, rest) :=
  congrArg (fun x => (decodeRx c len x).map (·, rest)) (be16_msb_lsb id)

theorem resp_inj {a b : Word16} : resp a = resp b ↔ a = b := by simp [resp]

theorem fixed_bounds_of_fieldsFit {n fixed : Nat} {f : Field × Nat} {fs : List (Field × Nat)}
    (h : fieldsFit n fixed (f :: fs) = true) : 1 ≤ fixed ∧ fixed ≤ n := by
  simp only [fieldsFit, List.all_cons, Bool.and_eq_true, decide_eq_true_eq] at h
  omega

section
variable {c : Cfg} (hv : c.valid = true)
include hv

theorem store_fixed_of_valid : 1 ≤ c.schema.store.fixed :=
  (fixed_bounds_of_fieldsFit (schema_check_of_valid hv (.tail _ (.head _)))).1

theorem retrieve_fixed_of_valid : 1 ≤ c.schema.retrieve.fixed ∧ c.schema.retrieve.fixed ≤ c.nmax :=
  fixed_bounds_of_fieldsFit (schema_check_of_valid hv (.tail _ (.tail _ (.head _))))

/-- Each request id differs from those that a table tests before it (R101). -/
theorem request_ids_distinct :
    c.cid.afDataRequestExt ≠ c.cid.afDataRequest ∧ c.cid.afDataStore ≠ c.cid.afDataRequest ∧
      c.cid.afDataRetrieve ≠ c.cid.afDataRequest ∧ c.cid.afDataStore ≠ c.cid.afDataRequestExt ∧
      c.cid.afDataRetrieve ≠ c.cid.afDataRequestExt ∧ c.cid.afDataRetrieve ≠ c.cid.afDataStore := by
  have h := (List.nodup_append.mp (ids_nodup_of_valid hv)).1
  simp only [CommandIds.requests, List.nodup_cons, List.mem_cons, not_or, ← ne_eq] at h
  obtain ⟨⟨h1, h2, h3, -⟩, ⟨h4, h5, -⟩, ⟨h6, -⟩, -⟩ := h
  exact ⟨h1.symm, h2.symm, h3.symm, h4.symm, h5.symm, h6.symm⟩

theorem decodeTx_requests {len : Byte} (hl : len ≠ 0#8) :
    decodeTx c len c.cid.afDataRequest = .ok (.afDataRequest len) ∧
    (BitVec.ofNat 8 c.schema.sendExt.fixed = len → decodeTx c len c.cid.afDataRequestExt = .ok .afDataRequestExt) ∧
    decodeTx c len c.cid.afDataStore = .ok (.afDataStore len) ∧
    (BitVec.ofNat 8 c.schema.retrieve.fixed = len → decodeTx c len c.cid.afDataRetrieve = .ok .afDataRetrieve) := by
  simp +contextual [decodeTx, hl, request_ids_distinct hv]

theorem decodeRx_responses {len : Byte} (hl : len ≠ 0#8) :
    decodeRx c len (resp c.cid.afDataRequest) = .ok (.afDataRequestSrsp len) ∧
    decodeRx c len (resp c.cid.afDataRequestExt) = .ok (.afDataRequestExtSrsp len) ∧
    decodeRx c len (resp c.cid.afDataStore) = .ok (.afDataStoreSrsp len) ∧
    decodeRx c len (resp c.cid.afDataRetrieve) = .ok (.afDataRetrieveSrsp len) := by
  simp [decodeRx, resp_inj, hl, request_ids_distinct hv]

/-- A notification is told apart from the responses (R101), and behind them the six ids decide. -/
theorem decodeRx_notifications {len : Byte} (hl : len ≠ 0#8) :
    decodeRx c len c.cid.zdoStateChangeInd = .ok (.zdoStateChangeInd len) ∧
    decodeRx c len c.cid.zdoEndDeviceAnnceInd = .ok (.zdoEndDeviceAnnceInd len) ∧
    decodeRx c len c.cid.zdoLeaveInd = .ok (.zdoLeaveInd len) ∧
    decodeRx c len c.cid.afIncomingMsg = .ok (.afIncomingMsg len) ∧
    decodeRx c len c.cid.afIncomingMsgExt = .ok (.afIncomingMsgExt len) ∧
    decodeRx c len c.cid.afDataConfirm = .ok (.afDataConfirm len) := by
  have hresp (r) (hr : r ∈ c.cid.requests) (n) (hn : n ∈ c.cid.notifications) : n ≠ resp r :=
    notification_ne_resp_of_valid hv hr hn
  simp only [CommandIds.requests, CommandIds.notifications, List.forall_mem_cons] at hresp
  have h := (List.nodup_append.mp (ids_nodup_of_valid hv)).2.1
  simp only [CommandIds.notifications, List.nodup_cons, List.mem_cons, not_or, ← ne_eq] at h
  obtain ⟨⟨h1, h2, h3, h4, h5, -⟩, ⟨h6, h7, h8, h9, -⟩, ⟨h10, h11, h12, -⟩, ⟨h13, h14, -⟩, ⟨h15, -⟩, -⟩ := h
  simp [decodeRx, hl, hresp, h1, h2, h3, h4, h5, h6.symm, h7, h8, h9, h10, h11, h12, h13.symm, h14.symm, h15.symm]

end

/-- The row of a received header with a length (R95, R101). -/
theorem decodeRx_of_receivedHeader {c : Cfg} {i : Instr} {len : Byte} {id : Word16} (hv : c.valid = true)
    (hl : len ≠ 0#8) (h : receivedHeader c i = some (len, id)) : decodeRx c len id = .ok i := by
  obtain ⟨hrequest, hrequestExt, hstore, hretrieve⟩ := decodeRx_responses hv hl
  obtain ⟨hstate, hannce, hleave, hmsg, hmsgExt, hconfirm⟩ := decodeRx_notifications hv hl
  cases i <;> cases h
  case noMessage => exact absurd rfl hl
  case afDataRequestSrsp => exact hrequest
  case afDataRequestExtSrsp => exact hrequestExt
  case afDataStoreSrsp => exact hstore
  case afDataRetrieveSrsp => exact hretrieve
  case zdoStateChangeInd => exact hstate
  case zdoEndDeviceAnnceInd => exact hannce
  case zdoLeaveInd => exact hleave
  case afIncomingMsg => exact hmsg
  case afIncomingMsgExt => exact hmsgExt
  case afDataConfirm => exact hconfirm

theorem ne_zero_of_le_toNat {len : Byte} {n : Nat} (hn : 1 ≤ n) (h : n ≤ len.toNat) : len ≠ 0#8 := by
  rintro rfl
  exact absurd (hn.trans h) (by decide)

theorem rxLength_ne_zero {c : Cfg} {len : Byte} (h : rxLength c len = true) : len ≠ 0#8 :=
  ne_zero_of_le_toNat (Nat.le_refl 1) (of_decide_eq_true (Bool.and_eq_true_iff.mp h).1)

/-- Settles O4, row by row: the ids of a valid configuration are distinct, so no earlier row of its format applies. -/
theorem decodeEncode : Obligations.DecodeEncode := by
  intro c i rest hv hw
  have tx {len id} (h : decodeTx c len id = .ok i) :
      decode c .frameTx (headerBytes len id ++ rest) = .ok (i, rest) := by rw [decode_frameTx_header, h]; rfl
  have rx {len id} (hl : rxLength c len = true) (h : receivedHeader c i = some (len, id)) :
      decode c .frameRx (headerBytes len id ++ rest) = .ok (i, rest) := by
    rw [decode_frameRx_header, decodeRx_of_receivedHeader hv (rxLength_ne_zero hl) h]
    rfl
  have hnmax := nmax_lt_of_valid hv
  cases i
  case noMessage id => rw [Instr.format, encode, decode_frameRx_header]; rfl
  case afDataRequest len =>
    obtain ⟨hlen, -⟩ := Bool.and_eq_true_iff.mp hw
    obtain ⟨h, -⟩ := decodeTx_requests hv (ne_zero_of_le_toNat (by decide) (of_decide_eq_true hlen))
    exact tx h
  case afDataRequestExt =>
    obtain ⟨hf, hn⟩ := sendExt_fixed_of_valid hv
    obtain ⟨-, h, -⟩ := decodeTx_requests hv (ofNat_ne_zero hf (by omega))
    exact tx (h rfl)
  case afDataStore len =>
    obtain ⟨hlen, -⟩ := Bool.and_eq_true_iff.mp hw
    obtain ⟨-, -, h, -⟩ := decodeTx_requests hv (ne_zero_of_le_toNat (store_fixed_of_valid hv) (of_decide_eq_true hlen))
    exact tx h
  case afDataRetrieve =>
    obtain ⟨hf, hn⟩ := retrieve_fixed_of_valid hv
    obtain ⟨-, -, -, h⟩ := decodeTx_requests hv (ofNat_ne_zero hf (by omega))
    exact tx (h rfl)
  case afDataRequestSrsp | afDataRequestExtSrsp | afDataStoreSrsp | afDataRetrieveSrsp => exact rx hw rfl
  case afDataConfirm | afIncomingMsg | afIncomingMsgExt => exact rx hw rfl
  case zdoStateChangeInd | zdoEndDeviceAnnceInd | zdoLeaveInd => exact rx hw rfl
  all_goals rfl

/-! ### From a row to its instruction (R101, R115) -/

theorem encode_of_decodeTx {c : Cfg} {len : Byte} {id : Word16} {i : Instr} (h : decodeTx c len id = .ok i) :
    i.format = .frameTx ∧ encode c i = headerBytes len id := by
  obtain ⟨⟨rfl, rfl⟩, rfl⟩ | ⟨-, h⟩ := row_of_ite h
  · exact ⟨rfl, rfl⟩
  obtain ⟨rfl, rfl⟩ | ⟨-, h⟩ := row_of_ite h
  · exact ⟨rfl, rfl⟩
  obtain ⟨⟨rfl, rfl⟩, rfl⟩ | ⟨-, h⟩ := row_of_ite h
  · exact ⟨rfl, rfl⟩
  obtain ⟨rfl, rfl⟩ | ⟨-, h⟩ := row_of_ite h
  · exact ⟨rfl, rfl⟩
  obtain ⟨⟨rfl, rfl⟩, rfl⟩ | ⟨-, h⟩ := row_of_ite h
  · exact ⟨rfl, rfl⟩
  exact nomatch h

theorem encode_of_decodeRx {c : Cfg} {len : Byte} {id : Word16} {i : Instr} (h : decodeRx c len id = .ok i) :
    i.format = .frameRx ∧ encode c i = headerBytes len id := by
  iterate 11
    obtain ⟨rfl, rfl⟩ | ⟨-, h⟩ := row_of_ite h
    · exact ⟨rfl, rfl⟩
  exact nomatch h

theorem format_of_decodeOp {v : Byte} {i : Instr} (h : decodeOp v = .ok i) : i.format = .hostop := by
  iterate 9
    obtain ⟨-, rfl⟩ | ⟨-, h⟩ := row_of_ite h
    · rfl
  exact nomatch h

theorem exists_of_map_ok {ε α β : Type} {f : α → β} {x : Except ε α} {b : β} (h : x.map f = .ok b) :
    ∃ a, x = .ok a ∧ f a = b := by
  cases x with
  | ok a => exact ⟨a, rfl, Except.ok.inj h⟩
  | error e => exact nomatch h

/-- Settles O5: each row of a format carries the header, or the byte, that its test names. -/
theorem encodeDecode : Obligations.EncodeDecode := by
  intro c f bytes rest i h
  unfold decode at h
  split at h
  · obtain ⟨j, hj, hjr⟩ := exists_of_map_ok h
    cases hjr
    exact ⟨format_of_decodeOp hj, by rw [encode_of_decodeOp c hj]; rfl⟩
  · obtain ⟨j, hj, hjr⟩ := exists_of_map_ok h
    cases hjr
    obtain ⟨hf, he⟩ := encode_of_decodeTx hj
    exact ⟨hf, by rw [he, headerBytes, msb_be16, lsb_be16]; rfl⟩
  · obtain ⟨j, hj, hjr⟩ := exists_of_map_ok h
    cases hjr
    obtain ⟨hf, he⟩ := encode_of_decodeRx hj
    exact ⟨hf, by rw [he, headerBytes, msb_be16, lsb_be16]; rfl⟩
  · exact nomatch h

/-- Settles O6: each word runs through the tables. -/
theorem decodeWords : Obligations.DecodeWords := ⟨rfl, rfl, rfl, rfl, rfl, rfl, rfl⟩

end Sys2Proof.Machine
end

section
/-! SUPPORT. What the received rows do in `CLSFY` and in a wait (R112, R210 to R215, R222), whatever their variant. -/
namespace Sys2Proof.Machine

/-! ### The variant of a received row (R112, R212) -/

/-- The table of R112 is the selection of R212 with the variant of the id. -/
theorem kindOf_eq (s : State) (len : Byte) (id : Word16) :
    s.kindOf len id = (s.selectVariant (variantOfId s.cfg.cid id) len id).code := by
  unfold State.kindOf State.selectVariant variantOfId
  split_ifs <;> rfl

theorem exec_receives {s : State} {i : Instr} {len : Byte} {id : Word16}
    (h : receivedHeader s.cfg i = some (len, id)) : ∃ v, exec i s = .next (s.receive v len id) := by
  cases i <;> cases h <;> exact ⟨_, rfl⟩

/-- Under a valid configuration a row's variant is that of its id; with length 0 it plays no part. -/
theorem exec_of_receivedHeader {s : State} {i : Instr} {len : Byte} {id : Word16} (hv : s.cfg.valid = true)
    (h : receivedHeader s.cfg i = some (len, id)) :
    exec i s = .next (s.receive (variantOfId s.cfg.cid id) len id) := by
  by_cases hl : len = 0#8
  · obtain ⟨v, hexec⟩ := exec_receives h
    subst hl
    rw [hexec, receive_zero s v]
  · exact exec_of_decodeRx hv (decodeRx_of_receivedHeader hv hl h)

/-- The registers every variant writes hold the header and the code of the variant. -/
theorem extract_classCommon (s : State) (v : Variant) (len : Byte) (id : Word16) :
    (s.extract v (s.classCommon v len id)).kind = v.code ∧ (s.extract v (s.classCommon v len id)).cid = id ∧
      (s.extract v (s.classCommon v len id)).len = len := by
  obtain ⟨hkind, -, hcid, hlen⟩ := extract_common s v (s.classCommon v len id)
  exact ⟨hkind, hcid, hlen⟩

/-! ### `CLSFY` (R210) -/

theorem exec_clsfy {s : State} (hb : s.busy = false) (hp : s.ph = .idle) (hv : s.cfg.valid = true) :
    exec .clsfy s =
      .next ((s.beginOp 0x04#8).receive (variantOfId s.cfg.cid s.frameCid) (s.fbAt 0) s.frameCid) := by
  rw [exec_direct (v := 0x04#8) rfl rfl hb hp hv, directStep_clsfy rfl]
  rfl

/-- Settles O49: `CLSFY` is one classification of the frame in `FB`, and R112's table is its selection. -/
theorem classifySucceeds : Obligations.ClassifySucceeds := by
  rintro s id ⟨hb, hp, hd, -⟩ hv rfl
  have hexec := exec_clsfy hb hp hv
  rw [receive_clsfy (s := s.beginOp 0x04#8) _ _ _ rfl rfl] at hexec
  obtain ⟨hkind, hcid, hlen⟩ := extract_classCommon (s.beginOp 0x04#8)
    ((s.beginOp 0x04#8).selectVariant (variantOfId s.cfg.cid s.frameCid) (s.fbAt 0) s.frameCid) (s.fbAt 0) s.frameCid
  refine ⟨_, hexec, ?_, hlen, hcid, hkind.trans (kindOf_eq s _ _).symm⟩
  have hstart : startState 0x04#8 = s.ds := hd.symm
  rw [hkind]
  simp [State.beginOp, hb, hstart, State.frameCid]

/-- The variants without a field register of their own, in `CLSFY`. -/
theorem receive_fieldless {s : State} {v w : Variant} {len : Byte} {id : Word16} (hb : s.busy = true)
    (hd : s.ds = .dIdle) (hsel : s.selectVariant v len id = w)
    (hw : w = .noMessage ∨ w = .syncResponse ∨ w = .unknown) :
    s.receive v len id = { s with
      k := { s.k with kind := w.code, kflags := 0x00#8, cid := id, len := len },
      tr := s.tr ++ [.demux w.code id], res := 0x00#8, busy := false, done := true } := by
  have hext (k : ClassOut) : s.extract w k = k := by rcases hw with rfl | rfl | rfl <;> rfl
  have hflags : s.kflags w len.toNat = 0x00#8 := by
    rw [kflags_of_ne_ext (by rcases hw with rfl | rfl | rfl <;> nofun)]
    rcases hw with rfl | rfl | rfl <;> rfl
  rw [receive_clsfy v len id hb hd, hsel, hext, State.classCommon, hflags]

/-- Settles O52: the length is tested before the id. -/
theorem noMessageFrame : Obligations.NoMessageFrame := fun s cid hb hd =>
  congrArg Host.Outcome.next (receive_fieldless hb hd (selectVariant_zero s .noMessage cid) (.inl rfl))

/-- Settles O59: an expected id is tested before the row's own, and the four responses have no variant of their own. -/
theorem expectedOrUnknownFrame : Obligations.ExpectedOrUnknownFrame := by
  intro s len i id hb hd hl hi
  obtain ⟨v, hexec, hv⟩ : ∃ v, exec i s = .next (s.receive v len id) ∧ (v = .unknown ∨ s.expv = true ∧ s.exp = id) := by
    rcases hi with ⟨rfl, rfl⟩ | ⟨rfl, rfl⟩ | ⟨rfl, rfl⟩ | ⟨rfl, rfl⟩ | ⟨he, hx, hi⟩
    iterate 4 exact ⟨.unknown, rfl, .inl rfl⟩
    rcases hi with ⟨rfl, rfl⟩ | ⟨rfl, rfl⟩ | ⟨rfl, rfl⟩ | ⟨rfl, rfl⟩ | ⟨rfl, rfl⟩ | ⟨rfl, rfl⟩ <;>
      exact ⟨_, rfl, .inr ⟨he, hx⟩⟩
  rw [hexec]
  by_cases hx : s.expv = true ∧ s.exp = id
  · rw [receive_fieldless hb hd (selectVariant_expected v hl hx.1 hx.2) (.inr (.inl rfl)), if_pos hx]
    rfl
  · obtain rfl := hv.resolve_right hx
    rw [receive_fieldless hb hd (selectVariant_own .unknown hl hx) (.inr (.inr rfl)), if_neg hx]
    rfl

/-! ### A wait (R166, R168) -/

/-- Settles O60: `receive_miss`, with R112's table under a valid configuration. -/
theorem waitDropsUnrelated : Obligations.WaitDropsUnrelated := by
  intro s i len id h hd hm
  obtain ⟨v, hexec, hv⟩ : ∃ v, exec i s = .next (s.receive v len id) ∧
      (s.cfg.valid = true → v = variantOfId s.cfg.cid id) := by
    by_cases hv : s.cfg.valid = true
    · exact ⟨_, exec_of_receivedHeader hv h, fun _ => rfl⟩
    · obtain ⟨v, hexec⟩ := exec_receives h
      exact ⟨v, hexec, fun hv' => absurd hv' hv⟩
  rw [receive_miss v len id hd hm] at hexec
  obtain ⟨hkind, hcid, hlen⟩ := extract_classCommon s (s.selectVariant v len id) len id
  refine ⟨_, hexec, ?_, hlen, hcid, fun hv' => hkind.trans ?_⟩
  · rw [hkind]
  · rw [kindOf_eq, hv hv']

end Sys2Proof.Machine
end

section
/-! SUPPORT. One step of the block, said whole: a reserved opcode (R116), the frames of a poll and of the chunks (R94,
R104, R105), and the responses at `D_STATUS` (R163, R190, R196). -/
namespace Sys2Proof.Machine

/-! ### Reserved opcodes (R116) -/

theorem decodeOp_reserved {v : Byte} (h : v.toNat = 0x00 ∨ (0x06 ≤ v.toNat ∧ v.toNat ≤ 0x0F) ∨ 0x14 ≤ v.toNat) :
    decodeOp v = .error (.reservedOpcode v) := by
  unfold decodeOp
  iterate 9 rw [if_neg (by rintro rfl; revert h; decide)]

theorem operate_reserved {s : State} {v : Byte} (hd : decodeOp v = .error (.reservedOpcode v))
    (hv : s.cfg.valid = true) (hb : s.busy = false) (hp : s.ph = .idle) :
    execReserved v s = .next ((s.beginOp v).failWith .invalidParameter) := by
  have hfault : s.startFault false = none := by simp [State.startFault, hb, hv]
  have hstart : startState v = .dIdle := by rw [startState, hd]
  have hrun : (s.beginOp v).running = none := by rw [State.running, beginOp_cmd, hd]; rfl
  have ht : (s.beginOp v).tick = (s.beginOp v).failWith .invalidParameter := by
    simp only [State.tick, beginOp_ph, hp, State.idlePhaseStep, beginOp_ds, hstart, State.directStep, hrun]
  obtain ⟨n, hn⟩ := exists_allowance s
  exact operate_next hfault (m := 1) (by omega) ((runToDone_succ rfl 0).trans ht) rfl

/-- Settles O10: the operation has no dispatcher state, and its one step fails it. -/
theorem reservedOpcode : Obligations.ReservedOpcode := by
  intro s v hv hb hp hr
  have hd := decodeOp_reserved hr
  have hmove : hostMove (.op v) s = execReserved v { s with hostWaits := true } := by
    simp only [hostMove, hostOp, hd]
  rw [hmove, operate_reserved (s := { s with hostWaits := true }) hd hv hb hp, State.failWith, State.endOp,
    diagEvents_eq]
  simp [State.beginOp, ResultCodes.code, hb]

/-! ### The frames of a poll and of the chunks (R94, R104, R105) -/

/-- Settles O41: three zero bytes in `FB`, and the select line. -/
theorem pollFrame : Obligations.PollFrame := fun s hcap =>
  ⟨s.pollStart, rfl, rfl, fbPut_fbBytes s 0 [0x00#8, 0x00#8, 0x00#8] hcap,
    fun _ ha => fbPut_fbAt_outside s 0 [0x00#8, 0x00#8, 0x00#8] (.inr ha)⟩

/-- The store-chunk request under the default layout (R104, R193). -/
theorem buildStore_frame {s : State} {len : Byte} (h : s.cfg.schema = Config.layouts) (hlen : 3 ≤ len.toNat)
    (hcap : 3 + len.toNat ≤ s.cfg.cap) :
    s.buildStore len = { s with fb := (s.buildStore len).fb, ds := .dExchange } ∧
      (s.buildStore len).fbBytes 0 (3 + len.toNat) = s.storeFrame s.xoff.toNat (len.toNat - 3) ∧
      ∀ a, 3 + len.toNat ≤ a → (s.buildStore len).fbAt a = s.fbAt a := by
  have hlen' : BitVec.ofNat 8 (3 + (len.toNat - 3)) = len := by
    rw [show 3 + (len.toNat - 3) = len.toNat by omega, BitVec.ofNat_toNat, BitVec.setWidth_eq]
  refine ⟨by rw [State.buildStore, putFields_eq]; rfl,
    built_frame (fs := s.storeFields (len.toNat - 3)) (len := len) (id := s.cfg.cid.afDataStore) ?_ ?_ ?_ hcap ?_⟩
  · simp [State.storeFields, h, Config.layouts, fieldBytes, InRow, hdr]
  · have hx : BitVec.ofNat 16 s.xoff.toNat = s.xoff := by simp
    simp [State.storeFields, h, Config.layouts, fieldBytes, State.storeFrame, leBytes_two, leBytes, hx, hlen']
  · simp only [State.storeFrame, List.length_append, List.length_cons, List.length_nil, xmBytes_length]
    omega
  · simp [State.buildStore, h, Config.layouts]

/-- Settles O44: the fields of each default layout stand in a row behind the header. -/
theorem fragmentFrames : Obligations.FragmentFrames := fun _ h =>
  ⟨fun _ hlen hcap => ⟨_, rfl, buildStore_frame h hlen hcap⟩, fun hcap => ⟨_, rfl, buildRetrieve_frame h hcap⟩⟩

/-! ### A response at `D_STATUS` (R163) -/

theorem exec_response {s : State} {i : Instr} {len : Byte} {id : Word16} (hd : s.ds = .dStatus)
    (h : receivedHeader s.cfg i = some (len, id)) : exec i s = .next (s.respond len.toNat) := by
  obtain ⟨v, hexec⟩ := exec_receives h
  rw [hexec, State.receive, if_pos hd]

theorem respond_nonzero {s : State} {len : Nat} (h : s.statusOffset < len) (h0 : s.field8 s.statusOffset ≠ 0#8) :
    s.respond len = s.endOp (s.field8 s.statusOffset) := by rw [respond_status h, if_neg h0]

theorem respond_zero {s : State} {len : Nat} (h : s.statusOffset < len) (h0 : s.field8 s.statusOffset = 0#8) :
    s.respond len = s.afterStatus len := by rw [respond_status h, if_pos h0]

/-- Settles O45: the nonzero byte is the result. -/
theorem failingStatus : Obligations.FailingStatus := by
  intro s len i soff hd hc hsoff hlen h0 hi
  obtain ⟨id, hrow⟩ : ∃ id, receivedHeader s.cfg i = some (len, id) := by
    rcases hi with rfl | rfl | rfl | rfl <;> exact ⟨_, rfl⟩
  have hoff : soff = s.statusOffset := hsoff.trans (statusOffset_eq hc).symm
  subst hoff
  rw [exec_response hd hrow, respond_nonzero hlen h0, State.endOp, diagEvents_eq]
  rfl

/-! ### The wait for the confirm, or none (R172, R173, R195) -/

theorem endOp_zero (s : State) :
    s.endOp 0#8 = { s with res := 0x00#8, busy := false, done := true, ds := .dIdle } := by
  rw [State.endOp, diagEvents_zero, List.append_nil]

section
variable {s : State}

theorem confirmWait_ends (ha : s.autowait = false) : s.confirmWait = s.endOp 0#8 := by
  rw [State.confirmWait, if_neg (by rw [ha]; nofun)]

theorem confirmWait_opens (ha : s.autowait = true) (hn : s.iterations s.a.tmo ≠ 0) :
    s.confirmWait = { s with
      wid := s.cfg.cid.afDataConfirm, iter := s.iterations s.a.tmo, ds := .dWaitSample } := by
  rw [State.confirmWait, if_pos ha, State.startWait, if_neg hn]

theorem confirmWait_times_out (ha : s.autowait = true) (hn : s.iterations s.a.tmo = 0) :
    s.confirmWait = { s with
      wid := s.cfg.cid.afDataConfirm, iter := 0, res := s.cfg.rc.timeout, busy := false, done := true, ds := .dIdle,
      tr := s.tr ++ diagTail s.verbose s.cmd s.cfg.rc.timeout } := by
  rw [State.confirmWait, if_pos ha, State.startWait, if_pos hn, State.failWith, State.endOp, diagEvents_eq]
  rfl

end

/-- Settles O46: behind a good status of `AFSEND` stands the wait for the confirm, or none. -/
theorem sendDataResponse : Obligations.SendDataResponse := by
  intro s len soff hd hc hsoff hlen h0
  have hoff : soff = s.statusOffset := hsoff.trans (statusOffset_afsend hc).symm
  subst hoff
  rw [exec_response hd rfl, respond_zero hlen h0, afterStatus_afsend hc]
  refine ⟨fun ha => ?_, fun ha hn => congrArg _ (confirmWait_opens ha hn), fun ha hn => ?_⟩
  · rw [confirmWait_ends ha, endOp_zero]
  · rw [confirmWait_times_out ha hn, hc]

/-! ### `AFSENDX` at its status (R190 to R195) -/

section
variable {x : State} (hc : x.cmd = 0x12#8)
include hc

theorem running_afsendx : x.running = some .afsendx := by
  rw [State.running, hc]
  rfl

theorem afterExchange_afsendx (hd : x.ds = .dExchange) : x.afterExchange = x.toDs .dStatus := by
  simp only [State.afterExchange, hd, running_afsendx hc]
  rfl

theorem afterStatus_afsendx (len : Nat) : x.afterStatus len = x.afsendxNext := by
  simp only [State.afterStatus, running_afsendx hc]

theorem statusOffset_afsendx : x.statusOffset =
    if x.begun = true then x.cfg.schema.storeSrsp.status.off else x.cfg.schema.sendExtSrsp.status.off := by
  simp only [State.statusOffset, running_afsendx hc]

/-- A match in the wait of `AFSENDX` reads the confirm's status (R172, R195). -/
theorem matched_afsendx (len : Nat) :
    x.matched len = x.withStatus len x.cfg.schema.confirm.status.off (x.endOp 0#8) := by
  simp only [State.matched, running_afsendx hc]

end

theorem chunkLen_end {s : State} (h : s.xoff = s.a.dlen) : s.chunkLen = 0 := by simp [State.chunkLen, h]

theorem chunkLen_pos {s : State} (hmax : 1 ≤ s.cfg.chunkMax) (h : s.xoff.toNat < s.a.dlen.toNat) : 0 < s.chunkLen := by
  rw [State.chunkLen]
  omega

/-- Settles O47: the latch tells the begin frame's response from a chunk's, and `XOFF` the last chunk's from the
others. -/
theorem fragmentedSendResponses : Obligations.FragmentedSendResponses := by
  intro s len soff hd hc hlen h0 hmax
  have hoff := statusOffset_afsendx hc
  refine ⟨fun hbegun hsoff => ?_, fun hbegun hsoff => ?_⟩
  · rw [if_neg (by rw [hbegun]; nofun), ← hsoff] at hoff
    subst hoff
    rw [exec_response hd rfl, respond_zero hlen h0, afterStatus_afsendx hc, State.afsendxNext, if_pos hbegun]
    rfl
  · rw [if_pos hbegun, ← hsoff] at hoff
    subst hoff
    rw [exec_response hd rfl, respond_zero hlen h0, afterStatus_afsendx hc, State.afsendxNext,
      if_neg (by rw [hbegun]; nofun)]
    refine ⟨fun hx => ?_, fun hx ha => ?_, fun hx ha hn => ?_, fun hx ha hn => ?_⟩
    · rw [if_neg (chunkLen_pos hmax hx).ne']
      rfl
    · rw [if_pos (chunkLen_end hx), confirmWait_ends ha, endOp_zero]
    · rw [if_pos (chunkLen_end hx), confirmWait_opens ha hn]
      rfl
    · rw [if_pos (chunkLen_end hx), confirmWait_times_out ha hn, hc]

/-! ### `AFRETRX` at its status (R196 to R199) -/

section
variable {x : State} (hc : x.cmd = 0x13#8)
include hc

theorem running_afretrx : x.running = some .afretrx := by
  rw [State.running, hc]
  rfl

theorem afterExchange_afretrx (hd : x.ds = .dExchange) : x.afterExchange = x.toDs .dStatus := by
  simp only [State.afterExchange, hd, running_afretrx hc]
  rfl

theorem afterStatus_afretrx (len : Nat) : x.afterStatus len = x.afretrxNext len := by
  simp only [State.afterStatus, running_afretrx hc]

theorem statusOffset_afretrx : x.statusOffset = x.cfg.schema.retrieved.status.off := by
  simp only [State.statusOffset, running_afretrx hc]

end

/-- The terminating retrieve's size is not looked at (R199). -/
theorem afretrxNext_end {s : State} (len : Nat) (h : s.chunkLen = 0) : s.afretrxNext len = s.endOp 0#8 := by
  rw [State.afretrxNext, State.wrongSize, decide_eq_false (not_not.mpr h), if_neg nofun, if_pos h]

section
variable {s : State} (hs : s.cfg.schema = Config.layouts)
include hs

theorem wrongSize_iff {len : Nat} (h : s.chunkLen ≠ 0) :
    s.wrongSize len = true ↔ len ≠ 2 + s.chunkLen ∨ (s.fbAt 4).toNat ≠ s.chunkLen := by
  simp [State.wrongSize, h, hs, Config.layouts]

/-- A retrieved chunk in `XM` (R196, R198). -/
theorem storeRetrieved_xm (hx : s.a.dptr.toNat + s.a.dlen.toNat ≤ s.cfg.xcap) (hoff : s.xoff.toNat ≤ s.a.dlen.toNat) :
    s.storeRetrieved.xmBytes (s.a.dptr.toNat + s.xoff.toNat) s.chunkLen = s.fbBytes 5 s.chunkLen ∧
      ∀ a, a < s.a.dptr.toNat + s.xoff.toNat ∨ s.a.dptr.toNat + s.xoff.toNat + s.chunkLen ≤ a →
        s.storeRetrieved.xmAt a = s.xmAt a := by
  have hlen : (s.fbBytes 5 s.chunkLen).length = s.chunkLen := fbBytes_length ..
  have hle : s.chunkLen ≤ s.a.dlen.toNat - s.xoff.toNat := Nat.min_le_right ..
  have hstore : s.storeRetrieved = s.xmPut (s.a.dptr.toNat + s.xoff.toNat) (s.fbBytes 5 s.chunkLen) := by
    rw [State.storeRetrieved, hs]
    rfl
  rw [hstore]
  refine ⟨?_, fun a ha => xmPut_xmAt_outside _ _ _ (by rw [hlen]; exact ha)⟩
  have h := xmPut_xmBytes s (s.a.dptr.toNat + s.xoff.toNat) (s.fbBytes 5 s.chunkLen) (by rw [hlen]; omega)
  rwa [hlen] at h

end

/-- Settles O48: `n` is the chunk asked for, and the sizes are compared before its bytes are stored. -/
theorem retrieveResponse : Obligations.RetrieveResponse := by
  intro s len n hl hd hc h0 hs hx hoff hn
  obtain rfl : n = s.chunkLen := hn
  have hsoff : s.statusOffset = 0 := by rw [statusOffset_afretrx hc, hs]; rfl
  have hpos : 0 < len.toNat := Nat.pos_of_ne_zero fun h => hl (BitVec.eq_of_toNat_eq h)
  rw [exec_response hd rfl, respond_zero (by rw [hsoff]; exact hpos) (by rw [hsoff]; exact h0), afterStatus_afretrx hc]
  refine ⟨fun hn => ?_, fun hn hbad => ?_, fun hn hlen hcount => ?_⟩
  · rw [afretrxNext_end _ hn, endOp_zero]
  · rw [State.afretrxNext, if_pos ((wrongSize_iff hs hn).mpr hbad), State.failWith, State.endOp, diagEvents_eq]
    simp [State.busReset, ResultCodes.code, hc]
  · have hgood : ¬ s.wrongSize len.toNat = true := fun h => by
      rcases (wrongSize_iff hs hn).mp h with h | h
      · exact h hlen
      · exact h hcount
    rw [State.afretrxNext, if_neg hgood, if_neg hn]
    exact ⟨_, rfl, rfl, storeRetrieved_xm hs hx hoff⟩

end Sys2Proof.Machine
end

section
/-! SUPPORT. `AFSEND` that does not wait (R170, R173). -/
namespace Sys2Proof.Machine

section
variable {x : State} {r : Reply} {f : Nat → Byte} (hfb : ∀ a, x.fbAt a = ontoBuffer f r a)
include hfb

/-- At `D_STATUS` the block takes up the response that its exchange has brought (R163). -/
theorem tick_status (h : InWait x .dStatus) (hpay : r.pay.length ≤ x.cfg.nmax) : x.tick = x.respond r.pay.length := by
  have hlen : x.frameLen = r.pay.length := frameLen_of_fbAt h.valid hpay (hfb 0)
  rw [tick_inWait h, State.idlePhaseStep, h.ds, ← hlen]
  rfl

/-- What follows a good status matters only behind a good status. -/
theorem withStatus_congr {off : Nat} {ok ok' : State} (h : r.Good off → ok = ok') :
    x.withStatus r.pay.length off ok = x.withStatus r.pay.length off ok' := by
  unfold State.withStatus State.statusByte
  split_ifs with hlen
  · rfl
  by_cases h0 : x.field8 off = 0#8
  · rw [field8_ontoBuffer hfb (by omega)] at h0
    rw [h (List.getElem?_eq_some_iff.mpr ⟨_, h0⟩)]
  · simp only [if_neg h0]

end

/-- Settles O34: the status is taken as it is, and a good one leads to no wait. -/
theorem sendData : Obligations.SendData := by
  intro s r levels more v events hs hdval hclus hdlen hxm hfit hid hr hrx hend hve
  have ⟨⟨hb, hp, hd, hsel⟩, hv, _⟩ := hs
  have ⟨hselect, hrelease, _, hpay⟩ := hfit
  obtain ⟨y, stale, hrun, hstale, hy, hfb⟩ :=
    afsend_answered hs (afsendCheck_none hdval hclus hdlen hxm) hfit hid hr hrx
  have hcfg : y.cfg = s.cfg := by rw [hy]
  have hcmd : y.cmd = 0x11#8 := by rw [hy]
  have hin : InWait y .dStatus := by rw [hy]; exact ⟨rfl, hp, hsel, rfl, hv⟩
  rw [← hcfg] at hend hve
  have hok : r.Good y.cfg.schema.requestSrsp.status.off → y.confirmWait = y.endOp 0#8 := fun hgood =>
    confirmWait_ends (by rw [hy]; exact hend.resolve_right (not_not.mpr hgood))
  have ht : y.tick = State.endOp { y with tr := y.tr ++ events } v := by
    rw [tick_status hfb hin (hcfg ▸ hpay), State.respond, statusOffset_afsend hcmd, afterStatus_afsend hcmd,
      withStatus_congr hfb hok, withStatus_endOp hfb hin.sel hve]
  have hallowed := reply_allowed hselect hrelease hr
  refine ⟨_, stale, exec_within rfl hs (hrun.trans (.tick hin.busy ht)) (by omega) rfl, hstale, ?_, hfb⟩
  rw [hy]
  simp [State.endOp, diagEvents_eq, hb, hd]

end Sys2Proof.Machine
end

section
/-! SUPPORT. Fragmented transfers (R190 to R200): the chunk law, one chunk's exchange from `D_CHUNK` to `D_STATUS`, and
what a row of them leaves behind. -/
namespace Sys2Proof.Machine

/-! ### The chunk law (R191) -/

theorem chunkMax_of_valid {c : Cfg} (h : c.valid = true) : 1 ≤ c.chunkMax ∧ c.chunkMax + 3 ≤ c.nmax :=
  ⟨of_decide_eq_true (check_of_valid (b := decide (1 ≤ c.chunkMax)) h (by simp [Cfg.checks])),
    of_decide_eq_true (check_of_valid (b := decide (c.chunkMax + 3 ≤ c.nmax)) h (by simp [Cfg.checks]))⟩

section
variable {s : State} {i : Nat}

theorem chunkAt_zero : s.chunkAt 0 = 0 := by simp [State.chunkAt]

theorem chunkAt_le : s.chunkAt i ≤ s.a.dlen.toNat := Nat.min_le_right ..

theorem chunkAt_succ : s.chunkAt (i + 1) = s.chunkAt i + s.chunkSize i := by
  simp only [State.chunkSize, State.chunkAt, Nat.succ_mul]
  omega

/-- The chunks of the law are those that carry data; the terminating one follows them. -/
theorem chunkSize_eq_zero (hmax : 1 ≤ s.cfg.chunkMax) : s.chunkSize i = 0 ↔ s.chunks ≤ i := by
  have hsize : s.chunkSize i = 0 ↔ s.a.dlen.toNat ≤ i * s.cfg.chunkMax := by
    simp only [State.chunkSize, State.chunkAt]
    omega
  have hchunks : s.chunks ≤ i ↔ s.a.dlen.toNat + s.cfg.chunkMax - 1 < (i + 1) * s.cfg.chunkMax := by
    rw [State.chunks, ceilDiv, ← Nat.lt_succ_iff, Nat.div_lt_iff_lt_mul hmax]
  rw [hsize, hchunks, Nat.succ_mul]
  omega

theorem chunkAt_chunks (hmax : 1 ≤ s.cfg.chunkMax) : s.chunkAt s.chunks = s.a.dlen.toNat := by
  have h := (chunkSize_eq_zero hmax).mpr (Nat.le_refl s.chunks)
  have hle : s.chunkAt s.chunks ≤ s.a.dlen.toNat := chunkAt_le
  simp only [State.chunkSize] at h
  omega

/-- A chunk carries at least one byte. -/
theorem chunks_le (hmax : 1 ≤ s.cfg.chunkMax) : s.chunks ≤ s.a.dlen.toNat := by
  have hle := Nat.mul_le_mul_left s.a.dlen.toNat hmax
  rw [← chunkSize_eq_zero hmax, State.chunkSize, State.chunkAt]
  omega

end

/-! ### One answered exchange, to `D_STATUS` -/

/-- `y` stands at `D_STATUS` behind the exchange of `frame` that started in `u` and was answered with `r`. -/
structure Exchanged (u y : State) (frame : List Byte) (r : Reply) (levels : List Bool) (more stale : List Byte) :
    Prop where
  state : y = { u with
    busy := true, done := y.done, ds := .dStatus, ph := .idle, sel := false, spin := y.spin, fb := y.fb,
    ready := levels, rx := more, tr := u.tr ++ r.trace frame stale }
  fbAt : ∀ a, y.fbAt a = ontoBuffer u.fbAt r a
  stale : stale.length = r.pay.length

theorem Exchanged.inWait {u y : State} {frame : List Byte} {r : Reply} {levels : List Bool} {more stale : List Byte}
    (h : Exchanged u y frame r levels more stale) (hv : u.cfg.valid = true) : InWait y .dStatus := by
  rw [h.state]
  exact ⟨rfl, rfl, rfl, rfl, hv⟩

/-- The state whose next exchange is a request with this id: `EXP` is latched for it (R26, R134). -/
def State.expecting (z : State) (id : Word16) : State := { z with exp := resp id, expv := true }

theorem expecting_fbAt (z : State) (id : Word16) : (z.expecting id).fbAt = z.fbAt := by
  funext a
  simp only [State.fbAt, State.expecting]

theorem afterExchange_fragmented {x : State} (hc : x.cmd = 0x12#8 ∨ x.cmd = 0x13#8) (hd : x.ds = .dExchange) :
    x.afterExchange = x.toDs .dStatus := by
  rcases hc with hc | hc
  · exact afterExchange_afsendx hc hd
  · exact afterExchange_afretrx hc hd

theorem launched_answered {u v : State} {frame more : List Byte} {r : Reply} {levels : List Bool}
    (hv : u.cfg.valid = true) (h : Launched u v frame) (hd : v.ds = .dExchange) (hc : u.cmd = 0x12#8 ∨ u.cmd = 0x13#8)
    (hfit : r.Fits u.cfg (frame.length - 3)) (hid : r.id = u.exp) (hr : u.ready = r.levels ++ levels)
    (hrx : u.rx = r.bytes ++ more) :
    ∃ y stale, Within (r.p + r.q + 7) v y ∧ Exchanged u y frame r levels more stale := by
  obtain ⟨w, stale, hstale, hrun, hw⟩ := exchange_answered hv h hfit hr hrx
  have hdone := hw.completes (.inr hid)
  rw [afterExchange_fragmented (x := w.toPh .idle) (by rw [toPh_cmd, hw.cmd]; exact hc) (hw.ds.trans hd)] at hdone
  refine ⟨_, stale, hrun.trans hdone, ?_, hw.fbAt, hstale⟩
  rw [hw.state]
  rfl

/-- The first exchange of `AFSENDX` and of `AFRETRX`. -/
theorem opens_answered {i : Instr} {op : Byte} {s u v : State} {frame more : List Byte} {r : Reply} {levels : List Bool}
    (hs : s.Startable) (ho : Opens i s u frame op v) (hc : op = 0x12#8 ∨ op = 0x13#8)
    (hfit : r.Fits s.cfg (frame.length - 3)) (hid : r.id = u.exp) (hr : s.ready = r.levels ++ levels)
    (hrx : s.rx = r.bytes ++ more) :
    ∃ y stale, Within (r.p + r.q + 10) (s.beginOp op) y ∧ Exchanged u y frame r levels more stale := by
  obtain ⟨-, hv, -⟩ := hs
  obtain ⟨y, stale, hrun, hy⟩ := launched_answered (ho.cfg ▸ hv) ho.launched ho.ds (ho.cmd ▸ hc) (ho.cfg ▸ hfit) hid
    (ho.ready ▸ hr) (ho.rx ▸ hrx)
  exact ⟨y, stale, (ho.run.trans hrun).mono (by omega), hy⟩

section
variable {z t : State} {row : Instr} {n : Nat} {id : Word16} {pay : List Byte} (h : InWait z .dChunk)
  (hc : z.cmd = 0x12#8 ∨ z.cmd = 0x13#8) (hchunk : z.chunkStep = z.startBuild n id)
  (hrow : (z.startBuild n id).frameToBuild = some row) (hexec : exec row (z.startBuild n id) = .next t)
  (ht : t = { z.startBuild n id with fb := t.fb, ds := .dExchange }) (hlen : pay.length = n) (hn : n ≤ z.cfg.nmax)
  (hframe : t.fbBytes 0 (3 + n) = headerBytes (BitVec.ofNat 8 n) id ++ pay)
  (hrest : ∀ a, 3 + n ≤ a → t.fbAt a = (z.startBuild n id).fbAt a)
include h hc hchunk hrow hexec ht hlen hn hframe hrest

/-- The start of a chunk's exchange: its frame is a row of the table (entry 6), and `t` is the state the row leaves. -/
theorem chunk_launched : ∃ v, Within 3 z v ∧ v.ds = .dExchange ∧
    Launched (z.expecting id) v (headerBytes (BitVec.ofNat 8 n) id ++ pay) := by
  have hcap3 : 3 ≤ z.cfg.cap := Nat.le_trans (by decide) (le_cap_of_valid h.valid)
  have hnmax := nmax_lt_of_valid h.valid
  have hcmd : z.cmd ≠ 0x02#8 ∧ z.cmd ≠ 0x10#8 := by rcases hc with hc | hc <;> rw [hc] <;> decide
  have hn' : (BitVec.ofNat 8 n).toNat = n := by rw [BitVec.toNat_ofNat]; omega
  have hl : (headerBytes (BitVec.ofNat 8 n) id ++ pay).length = 3 + n := by simp [headerBytes, hlen]; omega
  have hz : z.tick = z.startBuild n id := by rw [tick_inWait h, State.idlePhaseStep, h.ds, ← hchunk]
  have hb : (z.startBuild n id).tick = t := by
    have hbuild := Host.Outcome.next.inj ((exec_frameToBuild (s := z.startBuild n id) hcmd.2 hrow).symm.trans hexec)
    have hph : (z.startBuild n id).ph = .idle := h.ph
    have hds : (z.startBuild n id).ds = .dBuild := rfl
    rw [← hbuild, State.tick, hph, State.idlePhaseStep, hds]
  have hin : InWait t .dExchange := by rw [ht]; exact ⟨h.busy, h.ph, h.sel, rfl, h.valid⟩
  have hds : t.tick.ds = .dExchange := by
    have hx : t.tick = t.exchangeStep := by rw [tick_inWait hin, State.idlePhaseStep, hin.ds]
    rw [hx, (shifts_exchangeStep t).ds, hin.ds]
  refine ⟨t.tick, ((Within.tick h.busy hz).trans (.tick h.busy hb)).trans (.tick hin.busy rfl), hds, ?_⟩
  refine launched_request hin.busy hin.ph hin.ds (by rw [ht]; exact hcmd.1) (by rw [ht]; exact hcap3)
    (hlen.trans hn'.symm) (by rw [ht, hn']; exact hn) ?_ (by rw [ht, State.expecting]; rfl)
  refine fbAt_of_frame (by rw [hl]; exact hframe) fun a ha => ?_
  rw [hl] at ha
  rw [hrest a ha, startBuild_fbAt_behind hcap3 n id (Nat.le_of_add_right_le ha), expecting_fbAt]

theorem run_chunk {r : Reply} {levels : List Bool} {more : List Byte} (hfit : r.Fits z.cfg n) (hid : r.id = resp id)
    (hr : z.ready = r.levels ++ levels) (hrx : z.rx = r.bytes ++ more) :
    ∃ y stale, Within (r.p + r.q + 10) z y ∧
      Exchanged (z.expecting id) y (headerBytes (BitVec.ofNat 8 n) id ++ pay) r levels more stale := by
  obtain ⟨v, hstart, hds, hlaunch⟩ := chunk_launched h hc hchunk hrow hexec ht hlen hn hframe hrest
  have hl : (headerBytes (BitVec.ofNat 8 n) id ++ pay).length - 3 = n := by simp [headerBytes, hlen]
  obtain ⟨y, stale, hrun, hy⟩ := launched_answered (r := r) (levels := levels) (more := more)
    (by simpa [State.expecting] using h.valid) hlaunch hds (by simpa [State.expecting] using hc)
    (hl.symm ▸ (by simpa [State.expecting] using hfit)) (by simpa [State.expecting] using hid)
    (by simpa [State.expecting] using hr) (by simpa [State.expecting] using hrx)
  exact ⟨y, stale, (hstart.trans hrun).mono (by omega), hy⟩

end

/-! ### Where a transfer stands (R191) -/

/-- `z` runs the transfer that was started in `s`, with opcode `op`, and stands at chunk `i`. -/
structure AtChunk (s z : State) (op : Byte) (i : Nat) (d : DState) : Prop extends InWait z d where
  cfg : z.cfg = s.cfg
  a : z.a = s.a
  cmd : z.cmd = op
  xoff : z.xoff.toNat = s.chunkAt i

section
variable {s z y : State} {op : Byte} {i : Nat} {d : DState}

theorem AtChunk.chunkLen (h : AtChunk s z op i d) : z.chunkLen = s.chunkSize i := by
  rw [State.chunkLen, State.chunkSize, h.cfg, h.a, h.xoff]

theorem AtChunk.nextChunk (h : AtChunk s z op i d) : AtChunk s z.nextChunk op (i + 1) .dChunk := by
  refine ⟨⟨h.busy, h.ph, h.sel, rfl, h.valid⟩, h.cfg, h.a, h.cmd, ?_⟩
  have hle : s.chunkAt (i + 1) ≤ s.a.dlen.toNat := chunkAt_le
  have hlt := s.a.dlen.isLt
  rw [State.nextChunk, h.chunkLen, h.xoff, ← chunkAt_succ, BitVec.toNat_ofNat, Nat.mod_eq_of_lt (by omega)]

theorem AtChunk.exchanged {frame : List Byte} {id : Word16} {r : Reply} {levels : List Bool} {more stale : List Byte}
    (h : AtChunk s z op i .dChunk) (hy : Exchanged (z.expecting id) y frame r levels more stale) :
    AtChunk s y op i .dStatus := by
  have hin := hy.inWait (by simpa [State.expecting] using h.valid)
  have hcfg : y.cfg = z.cfg := by rw [hy.state, State.expecting]
  have ha : y.a = z.a := by rw [hy.state, State.expecting]
  have hcmd : y.cmd = z.cmd := by rw [hy.state, State.expecting]
  have hxoff : y.xoff = z.xoff := by rw [hy.state, State.expecting]
  exact ⟨hin, hcfg.trans h.cfg, ha.trans h.a, hcmd.trans h.cmd, hxoff ▸ h.xoff⟩

end

/-! ### What the exchanges of a transfer leave behind -/

theorem framesTrace_append {outs outs' : List (List Byte)} {rs rs' : List Reply} {stales stales' : List (List Byte)}
    (hr : outs.length = rs.length) (hs : stales.length = rs.length) :
    framesTrace (outs ++ outs') (rs ++ rs') (stales ++ stales') =
      framesTrace outs rs stales ++ framesTrace outs' rs' stales' := by
  induction rs generalizing outs stales with
  | nil => rw [List.length_eq_zero_iff.mp hr, List.length_eq_zero_iff.mp hs]; rfl
  | cons r rs ih =>
    obtain ⟨out, outs, rfl⟩ := List.exists_cons_of_length_eq_add_one hr
    obtain ⟨stale, stales, rfl⟩ := List.exists_cons_of_length_eq_add_one hs
    simp [framesTrace, ih (Nat.succ.inj hr) (Nat.succ.inj hs)]

/-- From `u` to `y`, at `D_STATUS`: the frames `outs`, with the request id `id`, have been exchanged for the replies
`rs`. -/
structure Chunked (u y : State) (id : Word16) (outs : List (List Byte)) (rs : List Reply) (stales : List (List Byte))
    (levels : List Bool) (more : List Byte) : Prop where
  state : y = { u with
    busy := true, done := y.done, ds := .dStatus, ph := .idle, sel := false, exp := resp id, expv := true,
    xoff := y.xoff, xm := y.xm, spin := y.spin, fb := y.fb, ready := levels, rx := more,
    tr := u.tr ++ framesTrace outs rs stales }
  fbAt : ∀ a, y.fbAt a = rs.foldl ontoBuffer u.fbAt a
  outs : outs.length = rs.length
  stales : stales.map List.length = rs.map (·.pay.length)

section
variable {u y : State} {id : Word16} {outs : List (List Byte)} {out stale : List Byte} {r : Reply} {levels : List Bool}
  {more : List Byte}

theorem Exchanged.chunked (h : Exchanged (u.expecting id) y out r levels more stale) :
    Chunked u y id [out] [r] [stale] levels more := by
  refine ⟨?_, fun a => ?_, rfl, by simp [h.stale]⟩
  · rw [h.state]
    simp [framesTrace, State.expecting]
  · rw [h.fbAt, expecting_fbAt]
    rfl

/-- One exchange more, from the `D_CHUNK` that the dispatcher has gone on to. -/
theorem Chunked.concat {z x : State} {rs : List Reply} {stales : List (List Byte)} {levels' : List Bool}
    {more' : List Byte} (h : Chunked u y id outs rs stales levels more)
    (hz : z = { y with ds := z.ds, xoff := z.xoff, xm := z.xm })
    (hx : Exchanged (z.expecting id) x out r levels' more' stale) :
    Chunked u x id (outs ++ [out]) (rs ++ [r]) (stales ++ [stale]) levels' more' := by
  have hstales : stales.length = rs.length := by simpa using congrArg List.length h.stales
  refine ⟨?_, fun a => ?_, by simp [h.outs], by simp [h.stales, hx.stale]⟩
  · rw [hx.state, hz, h.state, framesTrace_append h.outs hstales]
    simp [framesTrace, State.expecting]
  · have hfb : z.fb = y.fb := by rw [hz]
    have hfbAt : z.fbAt = rs.foldl ontoBuffer u.fbAt := funext fun b => by rw [← h.fbAt, fbAt_congr hfb]
    rw [hx.fbAt, expecting_fbAt, hfbAt, List.foldl_concat]

end

/-- `y` stands at `D_STATUS` of chunk `n` of the transfer started in `s`; its chunks, from `u` on, have sent the frames
`out` and been answered with the replies `rs`. -/
structure Behind (s u y : State) (op : Byte) (id : Word16) (out : Nat → List Byte) (rs : List Reply)
    (stales : List (List Byte)) (levels : List Bool) (more : List Byte) (n : Nat) : Prop extends
    AtChunk s y op n .dStatus where
  chunked : Chunked u y id ((List.range (n + 1)).map out) (rs.take (n + 1)) stales
    ((rs.drop (n + 1)).flatMap Reply.levels ++ levels) ((rs.drop (n + 1)).flatMap Reply.bytes ++ more)

/-- A reply of the script costs no more than an operation is allowed for one (entry 5). -/
theorem script_cost {s : State} {rs : List Reply} {pre post : List Bool} {i sent : Nat} (hi : i < rs.length)
    (hfit : rs[i].Fits s.cfg sent) (hr : s.ready = pre ++ rs.flatMap Reply.levels ++ post) :
    rs[i].p + rs[i].q + 16 ≤ s.passCost := by
  refine reply_cost hfit ?_
  have hle := List.Sublist.length_le
    (List.sublist_flatten_of_mem (List.mem_map_of_mem (f := Reply.levels) (List.getElem_mem hi)))
  rw [hr, List.length_append, List.length_append, List.flatMap_def]
  omega

theorem ready_drop {rs : List Reply} {n : Nat} (hn : n < rs.length) (levels : List Bool) :
    (rs.drop n).flatMap Reply.levels ++ levels =
      rs[n].levels ++ ((rs.drop (n + 1)).flatMap Reply.levels ++ levels) := by
  rw [List.drop_eq_getElem_cons hn, List.flatMap_cons, List.append_assoc]

theorem rx_drop {rs : List Reply} {n : Nat} (hn : n < rs.length) (more : List Byte) :
    (rs.drop n).flatMap Reply.bytes ++ more =
      rs[n].bytes ++ ((rs.drop (n + 1)).flatMap Reply.bytes ++ more) := by
  rw [List.drop_eq_getElem_cons hn, List.flatMap_cons, List.append_assoc]

section
variable {s u y z x : State} {op : Byte} {id : Word16} {out : Nat → List Byte} {rs : List Reply}
  {stales : List (List Byte)} {stale : List Byte} {levels : List Bool} {more : List Byte} {n : Nat}

theorem Behind.first (hn : 0 < rs.length) (h : AtChunk s y op 0 .dStatus)
    (hy : Exchanged (u.expecting id) y (out 0) rs[0] ((rs.drop 1).flatMap Reply.levels ++ levels)
      ((rs.drop 1).flatMap Reply.bytes ++ more) stale) :
    Behind s u y op id out rs [stale] levels more 0 := by
  refine ⟨h, ?_⟩
  rw [List.take_succ_eq_append_getElem hn]
  exact hy.chunked

/-- The next chunk is in the same place. -/
theorem Behind.next (hn : n + 1 < rs.length) (h : Behind s u y op id out rs stales levels more n)
    (hz : z = { y with ds := z.ds, xoff := z.xoff, xm := z.xm }) (hzc : AtChunk s z op (n + 1) .dChunk)
    (hx : Exchanged (z.expecting id) x (out (n + 1)) rs[n + 1] ((rs.drop (n + 2)).flatMap Reply.levels ++ levels)
      ((rs.drop (n + 2)).flatMap Reply.bytes ++ more) stale) :
    Behind s u x op id out rs (stales ++ [stale]) levels more (n + 1) := by
  refine ⟨hzc.exchanged hx, ?_⟩
  rw [List.range_succ, List.map_append, List.take_succ_eq_append_getElem hn]
  exact h.chunked.concat hz hx

/-- What the Module has not been asked for yet. -/
theorem Behind.pending (hn : n + 1 < rs.length) (h : Behind s u y op id out rs stales levels more n) :
    y.ready = rs[n + 1].levels ++ ((rs.drop (n + 2)).flatMap Reply.levels ++ levels) ∧
      y.rx = rs[n + 1].bytes ++ ((rs.drop (n + 2)).flatMap Reply.bytes ++ more) := by
  rw [h.chunked.state]
  exact ⟨ready_drop hn levels, rx_drop hn more⟩

/-- The response in `FB` is the last reply. -/
theorem Behind.response (hn : n < rs.length) (h : Behind s u y op id out rs stales levels more n) (a : Nat) :
    y.fbAt a = ontoBuffer ((rs.take n).foldl ontoBuffer u.fbAt) rs[n] a := by
  rw [h.chunked.fbAt, List.take_succ_eq_append_getElem hn, List.foldl_concat]

end

end Sys2Proof.Machine
end

section
/-! SUPPORT. `AFRETRX` (R196 to R200): its chunks, and what they put into `XM`. -/
namespace Sys2Proof.Machine

theorem retrieveFrame_eq (s : State) (off n : Nat) :
    s.retrieveFrame off n =
      headerBytes (BitVec.ofNat 8 7) s.cfg.cid.afDataRetrieve ++ (s.retrieveFrame off n).drop 3 := rfl

section
variable {s z y : State} {i : Nat} (hs : s.cfg.schema = Config.layouts)
include hs

/-- The exchange of a retrieve (R198). -/
theorem AtChunk.retrieves {r : Reply} {levels : List Bool} {more : List Byte} (h : AtChunk s z 0x13#8 i .dChunk)
    (hfit : r.Fits s.cfg 7) (hid : r.id = resp s.cfg.cid.afDataRetrieve) (hr : z.ready = r.levels ++ levels)
    (hrx : z.rx = r.bytes ++ more) :
    ∃ y stale, Within (r.p + r.q + 10) z y ∧ Exchanged (z.expecting s.cfg.cid.afDataRetrieve) y
      (s.retrieveFrame (s.chunkAt i) (s.chunkSize i)) r levels more stale := by
  have hv := h.valid
  have hcap := le_cap_of_valid hv
  have hcfg := h.cfg
  have hzs : z.cfg.schema = Config.layouts := hcfg ▸ hs
  have hfixed : z.cfg.schema.retrieve.fixed = 7 := by rw [hzs]; rfl
  have hchunk : z.chunkStep = z.startBuild 7 s.cfg.cid.afDataRetrieve := by
    rw [State.chunkStep, running_afretrx h.cmd, hcfg]
    simp only [← hcfg, hfixed]
  obtain ⟨h0, hbid⟩ := startBuild_header hv 7 s.cfg.cid.afDataRetrieve
  have hrow := frameToBuild_retrieve (s := z.startBuild 7 s.cfg.cid.afDataRetrieve) hv (by rw [h0]; decide)
    (by rw [h0]; exact (congrArg (BitVec.ofNat 8) hfixed).symm) (by rw [hbid, ← hcfg]; rfl)
  obtain ⟨ht, hframe, hrest⟩ := buildRetrieve_frame (s := z.startBuild 7 s.cfg.cid.afDataRetrieve) hzs
    (by show 10 ≤ z.cfg.cap; omega)
  have hsent : (z.startBuild 7 s.cfg.cid.afDataRetrieve).retrieveFrame z.xoff.toNat z.chunkLen =
      s.retrieveFrame (s.chunkAt i) (s.chunkSize i) := by
    rw [h.xoff, h.chunkLen, State.retrieveFrame, State.retrieveFrame, ← hcfg, ← h.a]
    rfl
  rw [retrieveFrame_eq]
  exact run_chunk h.toInWait (.inr h.cmd) hchunk hrow rfl ht rfl (by simp only [Cfg.nmax, hdr]; omega)
    (hframe.trans (hsent.trans (retrieveFrame_eq ..))) hrest (hcfg ▸ hfit) hid hr hrx

end

/-! ### The data in `XM` (R198) -/

theorem AtChunk.storeRetrieved {s y : State} {op : Byte} {i : Nat} {d : DState} (h : AtChunk s y op i d) :
    AtChunk s y.storeRetrieved op i d :=
  ⟨⟨h.busy, h.ph, h.sel, h.ds, h.valid⟩, h.cfg, h.a, h.cmd, h.xoff⟩

/-- The first `m` bytes of the data are in `XM`, and no byte of `XM` that is not theirs has changed since `s`. -/
structure Received (s y : State) (data : List Byte) (m : Nat) : Prop where
  data : y.xmBytes s.a.dptr.toNat m = data.take m
  outside : ∀ a, a < s.a.dptr.toNat ∨ s.a.dptr.toNat + m ≤ a → y.xmAt a = s.xmAt a

theorem received_zero (s : State) (data : List Byte) : Received s s data 0 := ⟨rfl, fun _ _ => rfl⟩

theorem Received.congr {s y x : State} {data : List Byte} {m : Nat} (h : Received s y data m) (hx : x.xm = y.xm) :
    Received s x data m := by
  have hat (a : Nat) : x.xmAt a = y.xmAt a := by rw [State.xmAt, hx, State.xmAt]
  exact ⟨by simpa [State.xmBytes, hat] using h.data, fun a ha => (hat a).trans (h.outside a ha)⟩

theorem xmBytes_add (s : State) (a m n : Nat) : s.xmBytes a (m + n) = s.xmBytes a m ++ s.xmBytes (a + m) n := by
  simp [State.xmBytes, List.range_add, Nat.add_assoc]

theorem xmBytes_congr {s y : State} {a n : Nat} (h : ∀ i, i < n → y.xmAt (a + i) = s.xmAt (a + i)) :
    y.xmBytes a n = s.xmBytes a n :=
  List.map_congr_left fun i hi => h i (List.mem_range.mp hi)

/-- The next bytes follow those that are there. -/
theorem Received.add {s y x : State} {data : List Byte} {m n : Nat} (h : Received s y data m)
    (hn : x.xmBytes (s.a.dptr.toNat + m) n = (data.drop m).take n)
    (hx : ∀ a, a < s.a.dptr.toNat + m ∨ s.a.dptr.toNat + m + n ≤ a → x.xmAt a = y.xmAt a) :
    Received s x data (m + n) := by
  refine ⟨?_, fun a ha => ?_⟩
  · rw [xmBytes_add, hn, List.take_add, ← h.data, xmBytes_congr fun i hi => hx _ (.inl (by omega))]
  · rw [hx a (by omega), h.outside a (by omega)]

/-- The Module's answer to the retrieve of chunk `i`, good, and with the bytes of `data` at its offset (R105). -/
def State.Retrieves (s : State) (data : List Byte) (i : Nat) (x : Reply) : Prop :=
  x.Fits s.cfg 7 ∧ x.id = resp s.cfg.cid.afDataRetrieve ∧
    if s.chunkSize i = 0 then x.Good 0
    else x.pay = [0x00#8, BitVec.ofNat 8 (s.chunkSize i)] ++ (data.drop (s.chunkAt i)).take (s.chunkSize i)

/-- Bytes of the payload, behind a reply. -/
theorem fbBytes_payload {x : State} {r : Reply} {f : Nat → Byte} (hfb : ∀ a, x.fbAt a = ontoBuffer f r a) {off n : Nat}
    (h : off + n ≤ r.pay.length) : x.fbBytes (3 + off) n = (r.pay.drop off).take n := by
  apply List.ext_getElem (by simp; omega)
  intro i hi _
  rw [fbBytes_length] at hi
  have hbyte : x.fbAt (3 + off + i) = x.field8 (off + i) := by rw [State.field8, hdr, Nat.add_assoc]
  simp [State.fbBytes, hbyte, field8_ontoBuffer hfb (show off + i < r.pay.length by omega)]

section
variable {s y : State} {data : List Byte} {i : Nat} {r : Reply} {f : Nat → Byte}

theorem State.Retrieves.good (h : s.Retrieves data i r) : r.Good 0 := by
  obtain ⟨-, -, h⟩ := h
  split_ifs at h with h0
  · exact h
  · rw [Reply.Good, h]
    rfl

theorem State.Retrieves.pay (h : s.Retrieves data i r) (h0 : s.chunkSize i ≠ 0) :
    r.pay = [0x00#8, BitVec.ofNat 8 (s.chunkSize i)] ++ (data.drop (s.chunkAt i)).take (s.chunkSize i) := by
  obtain ⟨-, -, h⟩ := h
  rwa [if_neg h0] at h

theorem chunkSize_le (s : State) (i : Nat) : s.chunkAt i + s.chunkSize i ≤ s.a.dlen.toNat := by
  have hle : s.chunkAt i ≤ s.a.dlen.toNat := chunkAt_le
  simp only [State.chunkSize]
  omega

variable (hs : s.cfg.schema = Config.layouts) (h : AtChunk s y 0x13#8 i .dStatus)
  (hfb : ∀ a, y.fbAt a = ontoBuffer f r a) (hret : s.Retrieves data i r)
include hs h hfb hret

/-- A good status leads to the chunk loop (R196). -/
theorem AtChunk.tick_retrieved : y.tick = y.afretrxNext r.pay.length := by
  obtain ⟨hlen, h0⟩ := List.getElem?_eq_some_iff.mp hret.good
  obtain ⟨⟨-, -, -, hpay⟩, -⟩ := hret
  have hoff : y.statusOffset = 0 := by rw [statusOffset_afretrx h.cmd, h.cfg, hs]; rfl
  have hzero : y.field8 y.statusOffset = 0#8 := by rw [hoff, field8_ontoBuffer hfb hlen, h0]
  rw [tick_status hfb h.toInWait (h.cfg ▸ hpay), respond_zero (hoff ▸ hlen) hzero, afterStatus_afretrx h.cmd]

/-- The terminating retrieve ends the operation (R199). -/
theorem AtChunk.tick_retrieved_end (h0 : s.chunkSize i = 0) : y.tick = y.endOp 0#8 := by
  rw [h.tick_retrieved hs hfb hret, afretrxNext_end _ (h.chunkLen.trans h0)]

variable (hx : s.a.dptr.toNat + s.a.dlen.toNat ≤ s.cfg.xcap) (hdata : data.length = s.a.dlen.toNat)
include hx hdata

/-- A chunk's bytes go to `XM` behind those of the chunks before it (R198). -/
theorem AtChunk.tick_retrieved_next (h0 : s.chunkSize i ≠ 0) (hrec : Received s y data (s.chunkAt i)) :
    y.tick = y.storeRetrieved.nextChunk ∧ Received s y.storeRetrieved.nextChunk data (s.chunkAt (i + 1)) := by
  have hchunk := h.chunkLen
  have hle := chunkSize_le s i
  have hmax := (chunkMax_of_valid h.valid).2
  have hnmax := nmax_lt_of_valid h.valid
  have hpay := hret.pay h0
  have hlen : r.pay.length = 2 + s.chunkSize i := by simp [hpay, hdata]; omega
  have hys : y.cfg.schema = Config.layouts := by rw [h.cfg, hs]
  have hcount : (y.fbAt 4).toNat = s.chunkSize i := by
    have h4 : y.fbAt 4 = y.field8 1 := rfl
    have hbyte : y.fbAt 4 = BitVec.ofNat 8 (s.chunkSize i) := by
      rw [h4, field8_ontoBuffer hfb (by omega)]
      simp [hpay]
    have hsize : s.chunkSize i ≤ s.cfg.chunkMax := Nat.min_le_left ..
    rw [hbyte, BitVec.toNat_ofNat, Nat.mod_eq_of_lt]
    rw [h.cfg] at hmax hnmax
    omega
  have hgood : ¬ y.wrongSize r.pay.length = true := by
    rw [wrongSize_iff hys (hchunk ▸ h0), hchunk]
    exact not_or.mpr ⟨not_not.mpr hlen, not_not.mpr hcount⟩
  obtain ⟨hbytes, hrest⟩ := storeRetrieved_xm (s := y) hys (by rw [h.a, h.cfg]; exact hx)
    (by rw [h.a, h.xoff]; exact chunkAt_le)
  rw [h.a, h.xoff, hchunk] at hbytes hrest
  have hnew : y.fbBytes 5 (s.chunkSize i) = (data.drop (s.chunkAt i)).take (s.chunkSize i) := by
    have hpart := fbBytes_payload hfb (off := 2) hlen.ge
    rw [hpay] at hpart
    simpa [List.take_take] using hpart
  refine ⟨by rw [h.tick_retrieved hs hfb hret, State.afretrxNext, if_neg hgood, if_neg (hchunk ▸ h0)], ?_⟩
  rw [chunkAt_succ]
  exact (hrec.add (hbytes.trans hnew) hrest).congr rfl

end

/-! ### The whole transfer -/

theorem afretrxCheck_none {s : State} (hd : s.dval = true) (hl : s.a.dlen.toNat ≤ s.cfg.xlenMax)
    (hx : s.a.dptr.toNat + s.a.dlen.toNat ≤ s.cfg.xcap) : s.afretrxCheck = none := by
  simp [State.afretrxCheck, hd, Nat.not_lt.mpr hl, Nat.not_lt.mpr hx]

/-- The retrieves of a transfer, by chunk (R191, R198). -/
def State.retrieves (s : State) (i : Nat) : List Byte := s.retrieveFrame (s.chunkAt i) (s.chunkSize i)

section
variable {s : State} {rs : List Reply} {data : List Byte} {levels : List Bool} {more : List Byte} (hst : s.Startable)
  (hs : s.cfg.schema = Config.layouts) (hcheck : s.afretrxCheck = none)
  (hx : s.a.dptr.toNat + s.a.dlen.toNat ≤ s.cfg.xcap) (hdata : data.length = s.a.dlen.toNat)
  (hlen : rs.length = s.chunks + 1) (hrs : ∀ (i : Nat) (h : i < rs.length), s.Retrieves data i rs[i])
  (hr : s.ready = rs.flatMap Reply.levels ++ levels) (hrx : s.rx = rs.flatMap Reply.bytes ++ more)
include hst hs hcheck hx hdata hlen hrs hr hrx

/-- The loop of `AFRETRX` (R196): the retrieves up to that of chunk `n` are answered, and the chunks before it are
stored. -/
theorem run_retrieves {n : Nat} (hn : n ≤ s.chunks) :
    ∃ y stales, Within ((n + 1) * s.passCost) (s.beginOp 0x13#8) y ∧
      Behind s { s with cmd := 0x13#8, xoff := 0x0000#16 } y 0x13#8 s.cfg.cid.afDataRetrieve s.retrieves rs stales
        levels more n ∧
      Received s y data (s.chunkAt n) := by
  have ⟨_, hv, _⟩ := hst
  have hcost (i : Nat) (hi : i < rs.length) : rs[i].p + rs[i].q + 16 ≤ s.passCost :=
    script_cost (pre := []) hi (hrs i hi).1 hr
  induction n with
  | zero =>
    have h0 : 0 < rs.length := by omega
    obtain ⟨hfit, hid, -⟩ := hrs 0 h0
    obtain ⟨v, hopen⟩ := opens_afretrx hst (if_pos ⟨hcheck, hs⟩)
    obtain ⟨y, stale, hrun, hy⟩ := opens_answered hst hopen (.inr rfl) hfit hid (hr.trans (ready_drop h0 levels))
      (hrx.trans (rx_drop h0 more))
    have hin := hy.inWait hv
    have hat : AtChunk s y 0x13#8 0 .dStatus := by
      refine ⟨hin, ?_, ?_, ?_, ?_⟩ <;> rw [hy.state]
      rw [chunkAt_zero]
      rfl
    refine ⟨y, [stale], hrun.mono ?_, .first h0 hat ?_, ?_⟩
    · have := hcost 0 h0
      omega
    · simpa [State.expecting, State.retrieves, chunkAt_zero] using hy
    · rw [chunkAt_zero]
      exact (received_zero s data).congr (by rw [hy.state])
  | succ n ih =>
    obtain ⟨y, stales, hrun, hy, hrec⟩ := ih (by omega)
    have hn1 : n + 1 < rs.length := by omega
    obtain ⟨hfit, hid, -⟩ := hrs (n + 1) hn1
    have hsize : s.chunkSize n ≠ 0 := by
      rw [Ne, chunkSize_eq_zero (chunkMax_of_valid hv).1]
      omega
    obtain ⟨hstore, hrec'⟩ :=
      hy.tick_retrieved_next hs (hy.response (by omega)) (hrs n (by omega)) hx hdata hsize hrec
    have hz : AtChunk s y.storeRetrieved.nextChunk 0x13#8 (n + 1) .dChunk := hy.storeRetrieved.nextChunk
    obtain ⟨hready, hbytes⟩ := hy.pending hn1
    obtain ⟨x, stale, hrun', hx'⟩ := hz.retrieves hs hfit hid hready hbytes
    refine ⟨x, stales ++ [stale], ((hrun.trans (.tick hy.busy hstore)).trans hrun').mono ?_,
      hy.next hn1 rfl hz hx', ?_⟩
    · have := hcost (n + 1) hn1
      rw [Nat.succ_mul (n + 1)]
      omega
    · exact hrec'.congr (by rw [hx'.state, State.expecting])

end

/-- Settles O40: the terminating retrieve finds all the data stored. -/
theorem fragmentedReceive : Obligations.FragmentedReceive := by
  intro s rs data levels more hst hs hdval hdlen hx hdata hlen hscript hr hrx
  have ⟨⟨hb, hp, hd, hsel⟩, hv, _⟩ := hst
  have hmax := (chunkMax_of_valid hv).1
  have hrs (i : Nat) (h : i < rs.length) : s.Retrieves data i rs[i] := hscript i _ (List.getElem?_eq_getElem h)
  obtain ⟨y, stales, hrun, hy, hrec⟩ :=
    run_retrieves hst hs (afretrxCheck_none hdval hdlen hx) hx hdata hlen hrs hr hrx (Nat.le_refl s.chunks)
  have hend := hy.tick_retrieved_end hs (hy.response (by omega)) (hrs s.chunks (by omega))
    ((chunkSize_eq_zero hmax).mpr (Nat.le_refl _))
  have hallowed : (s.chunks + 1) * s.passCost + 1 ≤ s.allowance := by
    have hle := Nat.mul_le_mul_right s.passCost (show s.chunks + 2 ≤ s.a.dlen.toNat + s.a.tmo.toNat * 1000 + 8 by
      have := chunks_le hmax
      omega)
    have hpos : 1 ≤ s.passCost := Nat.le_add_left 1 _
    rw [Nat.succ_mul (s.chunks + 1)] at hle
    exact Nat.le_trans (by omega) hle
  have hxoff : y.xoff = s.a.dlen := BitVec.eq_of_toNat_eq (hy.xoff.trans (chunkAt_chunks hmax))
  rw [chunkAt_chunks hmax] at hrec
  refine ⟨_, stales, exec_within rfl hst (hrun.trans (.tick hy.busy hend)) hallowed rfl, ?_, ?_, ?_, ?_⟩
  · have := hy.chunked.stales
    rwa [← hlen, List.take_length] at this
  · rw [endOp_zero, hy.chunked.state, ← hlen]
    simp only [hxoff, hb, hp, hd, hsel, List.take_length, List.drop_length, List.flatMap_nil, List.nil_append]
    rfl
  · exact (hrec.data).trans (List.take_of_length_le hdata.le)
  · exact hrec.outside

end Sys2Proof.Machine
end

section
/-! SUPPORT. `AFSENDX` (R190 to R195): its begin frame, its chunks, and what follows the terminating one. -/
namespace Sys2Proof.Machine

theorem storeFrame_eq (s : State) (off n : Nat) :
    s.storeFrame off n =
      headerBytes (BitVec.ofNat 8 (3 + n)) s.cfg.cid.afDataStore ++ (s.storeFrame off n).drop 3 := rfl

theorem frameToBuild_store {s : State} (hv : s.cfg.valid = true) (h0 : s.fbAt 0 ≠ 0#8)
    (hid : s.frameCid = s.cfg.cid.afDataStore) : s.frameToBuild = some (.afDataStore (s.fbAt 0)) := by
  obtain ⟨-, -, h, -⟩ := decodeTx_requests hv h0
  rw [State.frameToBuild, hid, h]

/-! ### One chunk (R193) -/

section
variable {s z y : State} {i : Nat} {r : Reply} (hs : s.cfg.schema = Config.layouts)
include hs

/-- The exchange of a store (R193). -/
theorem AtChunk.stores {levels : List Bool} {more : List Byte} (h : AtChunk s z 0x12#8 i .dChunk) (hxm : z.xm = s.xm)
    (hfit : r.Fits s.cfg (3 + s.chunkSize i)) (hid : r.id = resp s.cfg.cid.afDataStore)
    (hr : z.ready = r.levels ++ levels) (hrx : z.rx = r.bytes ++ more) :
    ∃ y stale, Within (r.p + r.q + 10) z y ∧ Exchanged (z.expecting s.cfg.cid.afDataStore) y
      (s.storeFrame (s.chunkAt i) (s.chunkSize i)) r levels more stale := by
  have hv := h.valid
  have hcfg := h.cfg
  have hzs : z.cfg.schema = Config.layouts := hcfg ▸ hs
  obtain ⟨-, hmax⟩ := chunkMax_of_valid hv
  have hnmax := nmax_lt_of_valid hv
  obtain ⟨n, hn⟩ : ∃ n, n = 3 + s.chunkSize i := ⟨_, rfl⟩
  have hsize : s.chunkSize i ≤ z.cfg.chunkMax := hcfg ▸ Nat.min_le_left ..
  have hnle : n ≤ z.cfg.nmax := by omega
  have hlen : (BitVec.ofNat 8 n).toNat = n := by
    rw [BitVec.toNat_ofNat, Nat.mod_eq_of_lt (by omega)]
  have hchunk : z.chunkStep = z.startBuild n s.cfg.cid.afDataStore := by
    have hfixed : z.cfg.schema.store.fixed = 3 := by rw [hzs]; rfl
    rw [State.chunkStep, running_afsendx h.cmd, h.chunkLen, hn]
    simp only [← hcfg, hfixed]
  obtain ⟨h0, hbid⟩ := startBuild_header hv n s.cfg.cid.afDataStore
  have hrow := frameToBuild_store (s := z.startBuild n s.cfg.cid.afDataStore) hv
    (by rw [h0]; exact ofNat_ne_zero (by omega) (by omega)) (by rw [hbid, ← hcfg]; rfl)
  rw [h0] at hrow
  obtain ⟨ht, hframe, hrest⟩ := buildStore_frame (s := z.startBuild n s.cfg.cid.afDataStore)
    (len := BitVec.ofNat 8 n) hzs (by omega) (by rw [hlen]; show 3 + n ≤ z.cfg.cap; simp only [Cfg.nmax, hdr] at hnle; omega)
  have hxmAt (a : Nat) : z.xmAt a = s.xmAt a := by rw [State.xmAt, hxm, State.xmAt]
  have hsent : (z.startBuild n s.cfg.cid.afDataStore).storeFrame z.xoff.toNat (n - 3) =
      s.storeFrame (s.chunkAt i) (s.chunkSize i) := by
    have hbytes : (z.startBuild n s.cfg.cid.afDataStore).xmBytes (z.a.dptr.toNat + s.chunkAt i) (s.chunkSize i) =
        s.xmBytes (z.a.dptr.toNat + s.chunkAt i) (s.chunkSize i) := xmBytes_congr fun j _ => hxmAt _
    rw [h.xoff, show n - 3 = s.chunkSize i by omega, State.storeFrame, State.storeFrame, ← hcfg, ← h.a]
    exact congrArg (_ ++ ·) hbytes
  rw [hlen] at hframe hrest
  rw [storeFrame_eq, ← hn]
  exact run_chunk h.toInWait (.inl h.cmd) hchunk hrow rfl ht (by simp [State.storeFrame, hn]; omega) hnle
    (hframe.trans (hsent.trans (hn ▸ storeFrame_eq ..))) hrest (by rw [hcfg, hn]; exact hfit) hid hr hrx

end

/-! ### The chunk loop (R190, R194) -/

/-- A good status leads to the chunk loop (R190). -/
theorem tick_accepted {x : State} {r : Reply} {f : Nat → Byte} (hxs : x.cfg.schema = Config.layouts)
    (h : InWait x .dStatus) (hc : x.cmd = 0x12#8) (hfb : ∀ a, x.fbAt a = ontoBuffer f r a)
    (hpay : r.pay.length ≤ x.cfg.nmax) (hgood : r.Good 0) : x.tick = x.afsendxNext := by
  obtain ⟨hlen, h0⟩ := List.getElem?_eq_some_iff.mp hgood
  have hoff : x.statusOffset = 0 := by rw [statusOffset_afsendx hc, hxs]; split <;> rfl
  have hzero : x.field8 x.statusOffset = 0#8 := by rw [hoff, field8_ontoBuffer hfb hlen, h0]
  rw [tick_status hfb h hpay, respond_zero (hoff ▸ hlen) hzero, afterStatus_afsendx hc]

/-- The chunks of a transfer, by number (R191, R193). -/
def State.stores (s : State) (i : Nat) : List Byte := s.storeFrame (s.chunkAt i) (s.chunkSize i)

/-- The Module's answer to chunk `i`, good (R104). -/
def State.Accepts (s : State) (i : Nat) (x : Reply) : Prop :=
  x.Fits s.cfg (3 + s.chunkSize i) ∧ x.id = resp s.cfg.cid.afDataStore ∧ x.Good 0

section
variable {s z : State} {rs : List Reply} {levels : List Bool} {more : List Byte} {c : Nat}
  (hs : s.cfg.schema = Config.layouts) (hbegun : z.begun = true)
  (hlen : rs.length = s.chunks + 1) (hrs : ∀ (i : Nat) (h : i < rs.length), s.Accepts i rs[i])

section
include hs hbegun hlen hrs

/-- Behind the good status of chunk `n` the loop goes on, or ends (R194, R195). -/
theorem Behind.tick_stored {y : State} {stales : List (List Byte)} {n : Nat} (hn : n ≤ s.chunks)
    (h : Behind s z y 0x12#8 s.cfg.cid.afDataStore s.stores rs stales levels more n) :
    y.tick = if s.chunks ≤ n then y.confirmWait else y.nextChunk := by
  obtain ⟨⟨-, -, -, hpay⟩, -, hgood⟩ := hrs n (by omega)
  have hopen : ¬ y.begun = false := by rw [h.chunked.state, hbegun]; nofun
  have hmax : 1 ≤ s.cfg.chunkMax := h.cfg ▸ (chunkMax_of_valid h.valid).1
  rw [tick_accepted (h.cfg ▸ hs) h.toInWait h.cmd (h.response (by omega)) (h.cfg ▸ hpay) hgood, State.afsendxNext,
    if_neg hopen]
  simp only [h.chunkLen, chunkSize_eq_zero hmax]

end

variable (hz : AtChunk s z 0x12#8 0 .dChunk) (hxm : z.xm = s.xm)
  (hcost : ∀ (i : Nat) (h : i < rs.length), rs[i].p + rs[i].q + 16 ≤ c)
  (hr : z.ready = rs.flatMap Reply.levels ++ levels) (hrx : z.rx = rs.flatMap Reply.bytes ++ more)
include hs hbegun hlen hrs hz hxm hcost hr hrx

/-- The loop of `AFSENDX` (R190): the chunks up to chunk `n` are answered. -/
theorem run_stores {n : Nat} (hn : n ≤ s.chunks) :
    ∃ y stales, Within ((n + 1) * c) z y ∧
      Behind s z y 0x12#8 s.cfg.cid.afDataStore s.stores rs stales levels more n ∧ y.xm = s.xm := by
  induction n with
  | zero =>
    have h0 : 0 < rs.length := by omega
    obtain ⟨hfit, hid, -⟩ := hrs 0 h0
    obtain ⟨y, stale, hrun, hy⟩ := hz.stores hs hxm hfit hid (hr.trans (ready_drop h0 levels))
      (hrx.trans (rx_drop h0 more))
    refine ⟨y, [stale], hrun.mono ?_, .first h0 (hz.exchanged hy) hy, by rw [hy.state, ← hxm, State.expecting]⟩
    have := hcost 0 h0
    omega
  | succ n ih =>
    obtain ⟨y, stales, hrun, hy, hyxm⟩ := ih (by omega)
    have hn1 : n + 1 < rs.length := by omega
    obtain ⟨hfit, hid, -⟩ := hrs (n + 1) hn1
    have htick := hy.tick_stored hs hbegun hlen hrs (by omega)
    rw [if_neg (by omega)] at htick
    obtain ⟨hready, hbytes⟩ := hy.pending hn1
    obtain ⟨x, stale, hrun', hx⟩ := hy.nextChunk.stores hs hyxm hfit hid hready hbytes
    refine ⟨x, stales ++ [stale], ((hrun.trans (.tick hy.busy htick)).trans hrun').mono ?_,
      hy.next hn1 rfl hy.nextChunk hx, by rw [hx.state, ← hyxm, State.expecting]; rfl⟩
    have := hcost (n + 1) hn1
    rw [Nat.succ_mul (n + 1)]
    omega

/-- The terminating chunk's good status ends the loop (R194, R195). -/
theorem run_all_stores :
    ∃ y stales, Within ((s.chunks + 1) * c) z y ∧
      Behind s z y 0x12#8 s.cfg.cid.afDataStore s.stores rs stales levels more s.chunks ∧ y.xm = s.xm ∧
      y.tick = y.confirmWait := by
  obtain ⟨y, stales, hrun, hy, hyxm⟩ := run_stores hs hbegun hlen hrs hz hxm hcost hr hrx (Nat.le_refl s.chunks)
  have htick := hy.tick_stored hs hbegun hlen hrs (Nat.le_refl _)
  rw [if_pos (Nat.le_refl _)] at htick
  exact ⟨y, stales, hrun, hy, hyxm, htick⟩

end

/-! ### The begin frame (R103, R190) -/

theorem afsendxCheck_none {s : State} (hd : s.dval = true) (hcl : s.a.clus ≠ 0#16)
    (hlo : s.cfg.afMaxData < s.a.dlen.toNat) (hhi : s.a.dlen.toNat ≤ s.cfg.xlenMax) (hm : s.a.amode ∈ s.cfg.amodes)
    (hx : s.a.dptr.toNat + s.a.dlen.toNat ≤ s.cfg.xcap) : s.afsendxCheck = none := by
  simp [State.afsendxCheck, hd, hcl, hm, Nat.not_le.mpr hlo, Nat.not_lt.mpr hhi, Nat.not_lt.mpr hx]

/-- `AFSENDX` up to its first chunk. -/
theorem run_begin {s : State} {r : Reply} {levels : List Bool} {more : List Byte} (hst : s.Startable)
    (hs : s.cfg.schema = Config.layouts) (hcheck : s.afsendxCheck = none) (hfit : r.Fits s.cfg 20)
    (hid : r.id = resp s.cfg.cid.afDataRequestExt) (hgood : r.Good 0) (hr : s.ready = r.levels ++ levels)
    (hrx : s.rx = r.bytes ++ more) :
    ∃ z stale, Within (r.p + r.q + 11) (s.beginOp 0x12#8) z ∧ stale.length = r.pay.length ∧
      AtChunk s z 0x12#8 0 .dChunk ∧
      z = { s with
        cmd := 0x12#8, busy := true, done := z.done, ds := .dChunk, tseq := s.tseq + 1, exp := z.exp, expv := z.expv,
        begun := true, xoff := 0x0000#16, spin := z.spin, fb := z.fb, ready := levels, rx := more,
        tr := s.tr ++ r.trace s.beginFrame stale } ∧
      ∀ a, z.fbAt a = ontoBuffer s.fbAt r a := by
  have ⟨⟨_, hp, _, hsel⟩, hv, _⟩ := hst
  have ⟨_, _, _, hpay⟩ := hfit
  obtain ⟨v, hopen⟩ := opens_afsendx hst (if_pos ⟨hcheck, hs⟩)
  obtain ⟨y, stale, hrun, hy⟩ := opens_answered hst hopen (.inl rfl) hfit hid hr hrx
  have hin := hy.inWait hv
  have hcfg : y.cfg = s.cfg := by rw [hy.state]
  have hbegun : y.begun = false := by rw [hy.state]
  have htick : y.tick = { y with begun := true, xoff := 0x0000#16, ds := .dChunk } := by
    rw [tick_accepted (hcfg ▸ hs) hin (by rw [hy.state]) hy.fbAt (hcfg ▸ hpay) hgood, State.afsendxNext, if_pos hbegun]
    rfl
  refine ⟨_, stale, (hrun.trans (.tick hin.busy htick)).mono (by omega), hy.stale,
    ⟨⟨hin.busy, hin.ph, hin.sel, rfl, hin.valid⟩, hcfg, ?_, ?_, chunkAt_zero.symm⟩, ?_, fun a => ?_⟩
  · rw [hy.state]
  · rw [hy.state]
  · rw [hy.state, hp, hsel]
  · refine (hy.fbAt a).trans ?_
    simp only [ontoBuffer, State.fbAt]

/-! ### What follows the terminating chunk (R195) -/

/-- What the end of a send leaves behind in `t`, from the last good status in `y`: the wait for the confirm as the
Module plays it, or no wait. -/
structure Confirmed (y t : State) (w : WaitScript) (v : Byte) (events : List Event) (levels : List Bool)
    (more : List Byte) (tail : List Event) : Prop where
  state : t = { y with
    ds := .dIdle, busy := false, done := true, res := v, expv := !w.polls && y.expv,
    wid := if y.autowait = true then y.cfg.cid.afDataConfirm else y.wid,
    iter := if y.autowait = true then y.iterations y.a.tmo - w.misses.length else y.iter,
    spin := t.spin, fb := t.fb, k := if w.polls = true then t.k else y.k, ready := levels, rx := more,
    tr := y.tr ++ tail }
  fbAt : ∀ a, t.fbAt a = w.onto y.fbAt a
  found : w.found.isSome = true → t.k.kind = 0x07#8 ∧ t.k.cid = y.cfg.cid.afDataConfirm
  tail_nil : y.autowait = false → tail = []
  delays : tail.count (.delay y.cfg.pollMs) = w.misses.length
  resets : resetCount tail = resetCount events

theorem confirmed_without_wait {y : State} (ha : y.autowait = false) :
    Confirmed y (y.endOp 0#8) ⟨[], none⟩ 0#8 [] y.ready y.rx [] := by
  refine ⟨?_, fun _ => rfl, nofun, fun _ => rfl, rfl, rfl⟩
  rw [endOp_zero, ha]
  simp [WaitScript.polls]

theorem WaitEnds.confirmed {y t : State} {w : WaitScript} {v : Byte} {events tail : List Event} {levels : List Bool}
    {more : List Byte}
    (h : WaitEnds y t w y.cfg.cid.afDataConfirm (y.iterations y.a.tmo) v events levels more) (hv : y.cfg.valid = true)
    (ha : y.autowait = true) (htail : y.tr ++ tail = t.tr) : Confirmed y t w v events levels more tail := by
  have hdelays := h.delays
  have hresets := h.resets
  rw [← htail] at hdelays hresets
  refine ⟨?_, h.fbAt, fun hfound => ?_, fun hn => ?_, ?_, ?_⟩
  · rw [if_pos ha, if_pos ha, htail]
    exact h.state
  · obtain ⟨hkind, hcid⟩ := h.found hfound
    rw [variantOfId_confirm hv] at hkind
    exact ⟨hkind, hcid⟩
  · rw [ha] at hn
    nomatch hn
  · rw [List.count_append] at hdelays
    omega
  · rw [resetCount, List.count_append] at hresets
    simp only [resetCount] at hresets ⊢
    omega

/-- The end of the wait of `AFSENDX` (R172, R195). -/
theorem confirm_ends_afsendx {x : State} {w : WaitScript} {f : Nat → Byte} {v : Byte} {events : List Event}
    (hc : x.cmd = 0x12#8) (hsel : x.sel = false) (hfb : ∀ a, x.fbAt a = w.onto f a)
    (hve : (v, events) = w.confirmed x.cfg) :
    (w.found.elim (x.failWith .timeout) fun c => x.matched c.pay.length) =
      State.endOp { x with tr := x.tr ++ events } v := by
  obtain ⟨misses, found⟩ := w
  cases found with
  | none =>
    obtain ⟨rfl, rfl⟩ := Prod.mk.inj hve
    rw [List.append_nil]
    rfl
  | some r =>
    have hlast (a : Nat) : x.fbAt a = ontoBuffer ((misses.filterMap id).foldl ontoBuffer f) r a := by
      rw [hfb, WaitScript.onto, List.foldl_append]
      rfl
    exact (matched_afsendx hc _).trans (withStatus_endOp hlast hsel hve)

/-- A run only adds to the trace. -/
theorem Within.tr {n : Nat} {s t : State} (h : Within n s t) : s.tr <+: t.tr := by
  obtain ⟨m, -, rfl⟩ := h
  exact (kept_runToDone m s).tr

theorem run_confirmWait {y : State} {w : WaitScript} {levels : List Bool} {more : List Byte} {v : Byte}
    {events : List Event} {c : Nat} (h : InWait y .dStatus) (hc : y.cmd = 0x12#8) (htick : y.tick = y.confirmWait)
    (hplays : y.autowait = true → w.Plays y.cfg y.cfg.cid.afDataConfirm (y.iterations y.a.tmo))
    (hnone : y.autowait = false → w = ⟨[], none⟩) (hr : y.ready = w.levels ++ levels) (hrx : y.rx = w.bytes ++ more)
    (hve : (v, events) = if y.autowait = true then w.confirmed y.cfg else (0x00#8, []))
    (hc2 : 2 ≤ c) (hcost : ∀ x ∈ w.misses, ∀ r ∈ x, r.p + r.q + 11 ≤ c) (hcost' : ∀ r ∈ w.found, r.p + r.q + 11 ≤ c) :
    ∃ t tail, Within (y.iterations y.a.tmo * c + 1) y t ∧ t.busy = false ∧
      Confirmed y t w v events levels more tail := by
  by_cases ha : y.autowait = true
  · rw [if_pos ha] at hve
    rw [State.confirmWait, if_pos ha] at htick
    obtain ⟨x, e, hx, hrun, hk⟩ := run_wait_kind h (hplays ha) hr hrx hc2 hcost hcost'
    have hend : _ = State.endOp { x with tr := x.tr ++ events } v :=
      confirm_ends_afsendx (by rw [hx.state]; exact hc) (by rw [hx.state]; exact h.sel) hx.fbAt
        (by rw [hx.state]; exact hve)
    rw [hend] at hrun
    have hall := (Within.tick h.busy htick).trans hrun
    obtain ⟨tail, htail⟩ := hall.tr
    exact ⟨_, tail, hall.mono (by omega), rfl,
      (hx.waitEnds hk (delay_not_mem_confirmed hve)).confirmed h.valid ha htail⟩
  · have ha' : y.autowait = false := Bool.not_eq_true _ ▸ ha
    obtain rfl := hnone ha'
    rw [if_neg ha] at hve
    obtain ⟨rfl, rfl⟩ := Prod.mk.inj hve
    rw [confirmWait_ends ha'] at htick
    obtain rfl : y.ready = levels := hr
    obtain rfl : y.rx = more := hrx
    exact ⟨_, [], (Within.tick h.busy htick).mono (by omega), rfl, confirmed_without_wait ha'⟩

/-- What the polls of a wait cost, wherever in the operation it stands (entry 5). -/
theorem wait_cost {s : State} {w : WaitScript} {nid : Word16} {n : Nat} {pre levels : List Bool}
    (hplays : w.Plays s.cfg nid n) (hr : s.ready = pre ++ w.levels ++ levels) :
    (∀ x ∈ w.misses, ∀ r ∈ x, r.p + r.q + 11 ≤ s.passCost) ∧ ∀ r ∈ w.found, r.p + r.q + 11 ≤ s.passCost := by
  obtain ⟨hmiss, -, hsome⟩ := hplays
  refine ⟨misses_cost (pre := pre) (post := w.found.elim [] (fun c => true :: c.levels) ++ levels) hmiss
    (by rw [hr, WaitScript.levels]; simp only [List.append_assoc]), fun r hfound => ?_⟩
  obtain ⟨-, hfit, -⟩ := hsome r hfound
  have := reply_cost hfit (by rw [hr, WaitScript.levels, Option.mem_def.mp hfound]; simp; omega)
  omega

/-- Settles O39: the begin frame, the chunk loop, and the end of a send, one behind the other. -/
theorem fragmentedSend : Obligations.FragmentedSend := by
  intro s r rs w levels more v events hst hs hdval hclus hlo hhi hmode hxcap hfit hid hgood hlen hscript hplays hnone hr
    hrx hve
  have ⟨⟨hb, hp, hd, hsel⟩, hv, _⟩ := hst
  have hmax := (chunkMax_of_valid hv).1
  have hrs (i : Nat) (h : i < rs.length) : s.Accepts i rs[i] := hscript i _ (List.getElem?_eq_getElem h)
  have hcost (i : Nat) (h : i < rs.length) : rs[i].p + rs[i].q + 16 ≤ s.passCost :=
    script_cost (pre := r.levels) (post := w.levels ++ levels) h (hrs i h).1 (by rw [hr, List.append_assoc])
  have hfirst : r.p + r.q + 16 ≤ s.passCost := reply_cost hfit (by rw [hr]; simp)
  obtain ⟨z, stale, hrunz, hstale, hatz, hz, hzfb⟩ := run_begin
    (levels := rs.flatMap Reply.levels ++ (w.levels ++ levels)) (more := rs.flatMap Reply.bytes ++ (w.bytes ++ more))
    hst hs (afsendxCheck_none hdval hclus hlo hhi hmode hxcap) hfit hid hgood (by simpa using hr) (by simpa using hrx)
  obtain ⟨y, stales, hruny, hy, hyxm, htick⟩ :=
    run_all_stores hs (by rw [hz]) hlen hrs hatz (by rw [hz]) hcost (by rw [hz]) (by rw [hz])
  have hauto : y.autowait = s.autowait := by rw [hy.chunked.state, hz]
  have hcfg := hy.cfg
  have hiter : y.iterations y.a.tmo = s.iterations s.a.tmo := by rw [State.iterations, hcfg, hy.a]; rfl
  have hready : y.ready = w.levels ++ levels := by
    rw [hy.chunked.state, ← hlen, List.drop_length]
    rfl
  have hyrx : y.rx = w.bytes ++ more := by
    rw [hy.chunked.state, ← hlen, List.drop_length]
    rfl
  obtain ⟨hmiss, hfound⟩ : (∀ x ∈ w.misses, ∀ r ∈ x, r.p + r.q + 11 ≤ s.passCost) ∧
      ∀ r ∈ w.found, r.p + r.q + 11 ≤ s.passCost := by
    cases ha : s.autowait with
    | true => exact wait_cost (hplays ha) hr
    | false => rw [hnone ha]; exact ⟨nofun, nofun⟩
  obtain ⟨t, tail, hrunt, htb, ht⟩ := run_confirmWait (c := s.passCost) (v := v) (events := events) hy.toInWait hy.cmd
    htick (by rw [hauto, hcfg, hiter]; exact hplays) (by rw [hauto]; exact hnone) hready hyrx
    (by rw [hauto, hcfg]; exact hve)
    (by rw [State.passCost]; omega) hmiss hfound
  rw [hiter] at hrunt
  have hallowed :
      r.p + r.q + 11 + (s.chunks + 1) * s.passCost + (s.iterations s.a.tmo * s.passCost + 1) ≤ s.allowance := by
    have hchunks := chunks_le hmax
    have hwaits := iterations_le hv s.a.tmo
    have hle := Nat.mul_le_mul_right s.passCost
      (show 1 + (s.chunks + 1) + s.iterations s.a.tmo ≤ s.a.dlen.toNat + s.a.tmo.toNat * 1000 + 8 by omega)
    rw [Nat.add_mul, Nat.add_mul, Nat.one_mul] at hle
    exact Nat.le_trans (by omega) hle
  refine ⟨t, stale, stales, tail, exec_within rfl hst ((hrunz.trans hruny).trans hrunt) hallowed htb, hstale, ?_, ?_,
    fun ha => ht.tail_nil (hauto.trans ha), hcfg ▸ ht.delays, ht.resets, hcfg ▸ ht.found, fun a => ?_⟩
  · have := hy.chunked.stales
    rwa [← hlen, List.take_length] at this
  · have hxoff : y.xoff = s.a.dlen := BitVec.eq_of_toNat_eq (hy.xoff.trans (chunkAt_chunks hmax))
    refine ht.state.trans ?_
    rw [hiter, hy.chunked.state, hz]
    simp [hxoff, hyxm, hb, hp, hd, hsel, State.iterations, List.take_of_length_le hlen.le]
    rfl
  · rw [ht.fbAt, funext hy.chunked.fbAt, ← hlen, List.take_length, funext hzfb]

end Sys2Proof.Machine
end
